-- ==== Sys2Proof/Word.lean ====
section
/-!
DEFINITION. The word types of the block: bytes (every stored item, R26), the 64-bit command word (R35) and the
32-bit RESULT (R21).
-/

namespace Sys2Proof

/-- One stored item: a field element, a table entry, a matrix entry, a buffer byte, a polynomial byte (R26). -/
abbrev Byte := BitVec 8

/-- One command word; bit 63 is the most significant (R35). -/
abbrev Word := BitVec 64

/-- The value of the RESULT register (R21). -/
abbrev Result := BitVec 32

end Sys2Proof
end

