-- ==== Sys2Proof/Config.lean ====
section
/-!
DEFINITION. The parameters the spec fixes (R7) and those it leaves open and gives a value (R8, decisions D10, D11).
No command has a result the spec leaves undefined, so there is no free value here.
-/

namespace Sys2Proof.Config

/-- Matrix registers M0 to M3 (R8). Their names are the constructors of `MReg`. -/
abbrev nmat : Nat := 4

/-- Largest `row_size` and largest `col_size` a matrix register holds (R8). -/
abbrev maxDim : Nat := 256

/-- Entries of storage per matrix register, `maxDim * maxDim` (R8). -/
abbrev matCap : Nat := 65536

/-- Bytes of the input buffer DIN (R8). -/
abbrev dinCap : Nat := 256

/-- Bytes of the output buffer DOUT (R8). -/
abbrev doutCap : Nat := 65536

/-- Smallest accepted field order (R7, R56). -/
abbrev minOrder : Nat := 1

/-- Largest accepted field order (R7, R56). -/
abbrev maxOrder : Nat := 8

/-- Largest number of rows, and of columns, of a Cauchy matrix: indices must fit one byte (R7, R75). -/
abbrev cauchyLimit : Nat := 255

/-- Order of the encoder's own field (R7, R97). -/
abbrev coderOrder : Nat := 8

/-- Polynomial byte of the encoder's own field (R7, R97). -/
abbrev coderPoly : Byte := 0x1D#8

end Sys2Proof.Config
end

