-- ==== Sys2Proof/Syntax.lean ====
section
/-!
DEFINITION. The 32 commands of R37, one constructor each, with exactly the operands each uses.
Scalar operands `a` and `b` are unsigned integers (R36), the byte operand `c` is a byte, register numbers are names.
-/

namespace Sys2Proof

/-- The four matrix registers (R17); every value of a 2-bit register field names one (R36). -/
inductive MReg where
  | m0 | m1 | m2 | m3
deriving DecidableEq, Repr

/-- One command (R37). -/
inductive Instr where
  /-- `NOP` (R111). -/
  | nop
  /-- `RESET` (R112). -/
  | reset
  /-- `FIELD w, poly` (R56). -/
  | field (w : Nat) (poly : Byte)
  /-- `GFADD x, y` (R57). -/
  | gfadd (x y : Nat)
  /-- `GFSUB x, y` (R58). -/
  | gfsub (x y : Nat)
  /-- `GFMULD x, y` (R59). -/
  | gfmuld (x y : Nat)
  /-- `GFMULT x, y` (R60). -/
  | gfmult (x y : Nat)
  /-- `GFDIVT x, y`, `x` the dividend and `y` the divisor (R61). -/
  | gfdivt (x y : Nat)
  /-- `ISGEN cand` (R62). -/
  | isgen (cand : Nat)
  /-- `MINGEN` (R63). -/
  | mingen
  /-- `ALLGEN` (R64). -/
  | allgen
  /-- `RDPOW i` (R65). -/
  | rdpow (i : Nat)
  /-- `RDLOG e` (R66). -/
  | rdlog (e : Nat)
  /-- `RDFLD` (R67). -/
  | rdfld
  /-- `MNEW Md, rows, cols, fill` (R81). -/
  | mnew (md : MReg) (rows cols : Nat) (fill : Byte)
  /-- `MIDENT Md, n` (R82). -/
  | mident (md : MReg) (n : Nat)
  /-- `MCOLV Md` (R83). -/
  | mcolv (md : MReg)
  /-- `MCAUCHY Md, rows, cols` (R84). -/
  | mcauchy (md : MReg) (rows cols : Nat)
  /-- `MAPPEND Md, Ma, Mb`, `Ma` the top and `Mb` the bottom (R85). -/
  | mappend (md ma mb : MReg)
  /-- `MMULF Md, Ma, Mb` (R86). -/
  | mmulf (md ma mb : MReg)
  /-- `MTOVEC Ma` (R87). -/
  | mtovec (ma : MReg)
  /-- `MRD Ma, r, col` (R88). -/
  | mrd (ma : MReg) (r col : Nat)
  /-- `MWR Md, r, col, value` (R89). -/
  | mwr (md : MReg) (r col : Nat) (value : Byte)
  /-- `MDIM Ma` (R90). -/
  | mdim (ma : MReg)
  /-- `DCLR` (R113). -/
  | dclr
  /-- `DPUSH byte` (R114). -/
  | dpush (byte : Byte)
  /-- `RDOUT i` (R115). -/
  | rdout (i : Nat)
  /-- `RDOLEN` (R116). -/
  | rdolen
  /-- `RSNEW dataNum, parityNum` (R101). -/
  | rsnew (dataNum parityNum : Nat)
  /-- `RSENC` (R102). -/
  | rsenc
  /-- `RSRDG r, col` (R103). -/
  | rsrdg (r col : Nat)
  /-- `RSDIM` (R104). -/
  | rsdim
deriving DecidableEq, Repr

end Sys2Proof
end

