-- ==== Sys2Proof/Machine/State.lean ====
section
/-!
DEFINITION. The state of the block as plain data (10_state.md R10 to R24), the state after reset, the errors a command
can raise (R122), and the reasons the model's step could stop.
A part the spec calls "unspecified; unreadable" is absent: a valid bit is an Option being some, a store is a list of
exactly the cells that exist (R24 and U2 of 93_implementation_defined.md allow both; log 2).
-/

namespace Sys2Proof.Machine

/-- The errors of R122, by name; `OK` is not one of them. Their codes are `Err.code`. -/
inductive Err where
  /-- 0x01: the order is below 1 or above 8. Raised by `FIELD`. -/
  | invalidOrder
  /-- 0x02: no candidate `2 .. element_count-1` qualifies. Raised by `FIELD`. -/
  | noGeneratorFound
  /-- 0x03: an identity of size 0. Raised by `MIDENT`, `RSNEW`. -/
  | zeroSizeMatrix
  /-- 0x04: a Cauchy dimension above 255. Raised by `MCAUCHY`, `RSNEW`. -/
  | tooManyFragments
  /-- 0x05: Cauchy `rows + cols` above `element_count`. Raised by `MCAUCHY`, `RSNEW`. -/
  | fieldCapacityExceeded
  /-- 0x06: `DIN_LEN` differs from `dataNum`. Raised by `RSENC`. -/
  | sizeMismatch
  /-- 0x07: the divisor is the zero element. Raised by `GFDIVT`. -/
  | divideByZero
  /-- 0x08: the column counts differ. Raised by `MAPPEND`, `MMULF`. -/
  | shapeMismatch
  /-- 0x09: `F.valid = 0`. Raised by every command that needs the field. -/
  | noField
  /-- 0x0A: `C.valid = 0`. Raised by `RSENC`, `RSRDG`, `RSDIM`. -/
  | noCoder
  /-- 0x0B: an operand or entry is no element of the field, or the Cauchy boundary case. -/
  | operandOutOfField
  /-- 0x0C: a source matrix register (for `MWR` the destination) is invalid. -/
  | matrixInvalid
  /-- 0x0D: a matrix size above MAXDIM, or a 257th `DPUSH`. -/
  | capacityExceeded
  /-- 0x0E: an index outside the range that exists. -/
  | indexOutOfRange
  /-- 0x0F: an illegal command word (R38). -/
  | illegalCommand
deriving DecidableEq, Repr

/-- A constructed field descriptor (R10). `element_count` and `overflow_flag` are derived from `w` (R10). -/
structure FieldCtx where
  /-- The order. -/
  w : Nat
  /-- The polynomial byte `P`. -/
  poly : Byte
  /-- `POWER[0 .. element_count-1]`, exponent to element (R11). -/
  power : List Byte
  /-- `LOG[1 .. element_count-1]`, element to exponent: entry `k` is `LOG[k+1]`. `LOG[0]` is written and read by no
  rule (R11) and is not stored (log 3). -/
  log : List Byte
deriving DecidableEq, Repr

/-- A matrix value (R17, R71): entry `(r, c)` at index `r * cols + c`, only the indices below `rows * cols` exist. -/
structure Mat where
  /-- `row_size`. -/
  rows : Nat
  /-- `col_size`. -/
  cols : Nat
  /-- The entries, row-major. -/
  e : List Byte
deriving DecidableEq, Repr

/-- A built encoder (R14). Its field is the constant `coderField` (R15), not state. -/
structure Coder where
  /-- Number of data fragments. -/
  dataNum : Nat
  /-- Number of parity fragments. -/
  parityNum : Nat
  /-- `C.G`, `(dataNum + parityNum) × dataNum` bytes, row-major (R16). -/
  g : List Byte
deriving DecidableEq, Repr

/-- What the host can do to the block between two commands (R141, R143, R144). -/
inductive HostEvent where
  /-- Offer a command word (`cmd_valid = 1`, `cmd_data = wd`). -/
  | command (wd : Word)
  /-- Pull `rst_n` low (R141). -/
  | reset
deriving DecidableEq, Repr

/-- The whole state of the block, and what the host still gives it. -/
structure State where
  /-- The field context F; none is `F.valid = 0` (R10). -/
  field : Option FieldCtx
  /-- The coder context C; none is `C.valid = 0` (R14). -/
  coder : Option Coder
  /-- Matrix register M0; none is `M[0].valid = 0` (R17). -/
  m0 : Option Mat
  /-- Matrix register M1. -/
  m1 : Option Mat
  /-- Matrix register M2. -/
  m2 : Option Mat
  /-- Matrix register M3. -/
  m3 : Option Mat
  /-- `DIN[0 .. DIN_LEN-1]`, oldest byte first; its length is `DIN_LEN` (R18). -/
  din : List Byte
  /-- `DOUT[0 .. OUT_LEN-1]`; its length is `OUT_LEN` (R18). -/
  dout : List Byte
  /-- `STATUS` (R21), shown on port `rsp_status` (R143). -/
  status : Byte
  /-- `RESULT` (R21), shown on port `rsp_result` (R143). -/
  result : Result
  /-- Port `rsp_valid` (R143): the last step executed a command and presents its response (log 4). -/
  rspValid : Bool
  /-- The model's own field: what the host still gives the block, in order (R20, R144, U10; log 1). -/
  host : List HostEvent
deriving DecidableEq, Repr

/-- The block never stops: an error is a response (R121), there are no traps (R126), every command terminates (R144).
So there is no fault (log 7). -/
inductive Fault
deriving DecidableEq, Repr

/-- Reasons for which the model has no meaning for a command. -/
inductive Refusal where
  /-- A command whose meaning is not written. Raised only by `exec`'s own arms, and no arm raises it. Safe: nothing is
  provable about the command's effect. -/
  | notModelled (mnemonic : String)
deriving DecidableEq, Repr

/-- The outcome type of the machine. -/
abbrev Out := Host.Outcome State Fault Refusal

/-- The state after reset (R24, R141): every valid bit 0, both lengths 0, `STATUS = 0x00`, `RESULT = 0`, no response
presented (log 4), and nothing given by the host yet (log 1). -/
def State.reset : State where
  field := none
  coder := none
  m0 := none
  m1 := none
  m2 := none
  m3 := none
  din := []
  dout := []
  status := 0x00#8
  result := 0x00000000#32
  rspValid := false
  host := []

end Sys2Proof.Machine
end

