-- ==== Sys2Proof/Machine/Gf.lean ====
section
/-!
DEFINITION. The internal functions of the field engine (40_field_engine.md R42 to R50).
-/

namespace Sys2Proof.Machine

/-- `element_count = 2^w` (R7, R10). -/
def elementCount (w : Nat) : Nat := 2 ^ w

/-- `overflow_flag = 2^(w-1)` (R7, R10). -/
def overflowFlag (w : Nat) : Byte := BitVec.ofNat 8 (2 ^ (w - 1))

/-- A polynomial byte is well-formed for order `w` (R42). The block never tests it. -/
def wellFormedPoly (w : Nat) (P : Byte) : Bool := w == 8 || (decide (w < 8) && P.toNat >>> w == 1)

/-- One doubling of an 8-bit value (R43): an 8-bit shift, then the polynomial iff the top bit was set. -/
def gfDbl (w : Nat) (P v : Byte) : Byte :=
  if v &&& overflowFlag w = 0#8 then v <<< 1 else (v <<< 1) ^^^ P

/-- The accumulation of R44: `k` doubled values are left, `p` is `p[i]`, `acc` the sum so far. -/
def mulDirectLoop (w : Nat) (P y : Byte) : Nat → Nat → Byte → Byte → Byte
  | 0, _, _, acc => acc
  | k + 1, i, p, acc => mulDirectLoop w P y k (i + 1) (gfDbl w P p) (if y.getLsbD i then acc ^^^ p else acc)

/-- Direct multiplication (R44): the XOR of the doubled values `x·2^0 .. x·2^7` selected by the bits of `y`. -/
def gfMulDirect (w : Nat) (P x y : Byte) : Byte := mulDirectLoop w P y 8 0 x 0#8

/-- The walk of R45: `k` steps are left, `v` is the current power, `seen` the powers met. -/
def generatorWalk (w : Nat) (P c : Byte) : Nat → Byte → List Byte → Bool
  | 0, _, _ => true
  | k + 1, v, seen =>
    if v = 0#8 ∨ elementCount w ≤ v.toNat ∨ v ∈ seen then false
    else generatorWalk w P c k (gfMulDirect w P v c) (v :: seen)

/-- The generator test (R45): `c^1 .. c^(n-1)` are pairwise different, nonzero and in-field. -/
def isGenerator (w : Nat) (P c : Byte) : Bool := generatorWalk w P c (elementCount w - 1) c []

/-- The candidates `2 .. element_count-1`, ascending; none when `w = 1` (R46, R54). -/
def candidates (w : Nat) : List Byte := (List.range' 2 (elementCount w - 2)).map (BitVec.ofNat 8)

/-- The generator search (R46): the first candidate that qualifies. -/
def findGenerator (w : Nat) (P : Byte) : Except Err Byte :=
  match (candidates w).find? (isGenerator w P) with
  | some g => .ok g
  | none => .error .noGeneratorFound

/-- All candidates that qualify, ascending (R64). -/
def allGenerators (w : Nat) (P : Byte) : List Byte := (candidates w).filter (isGenerator w P)

/-- `k` successive powers starting at `v`, each the direct product of the one before with `g` (R47). -/
def powersFrom (w : Nat) (P g : Byte) : Nat → Byte → List Byte
  | 0, _ => []
  | k + 1, v => v :: powersFrom w P g k (gfMulDirect w P v g)

/-- `POWER[0 .. element_count-1]` (R47): `POWER[0] = 1`, `POWER[i] = POWER[i-1] · g`. -/
def powerTable (w : Nat) (P g : Byte) : List Byte := powersFrom w P g (elementCount w) 1#8

/-- `LOG[e] <- i`, on a table that holds `LOG[1]` first; index 0 is no cell of it (R11). -/
def setLog (log : List Byte) (e : Byte) (i : Nat) : List Byte :=
  if e = 0#8 then log else log.set (e.toNat - 1) (BitVec.ofNat 8 i)

/-- The writes `LOG[POWER[i]] <- i` for the given entries `POWER[i], POWER[i+1], …` in order (R47). -/
def writeLogs : List Byte → Nat → List Byte → List Byte
  | [], _, log => log
  | p :: ps, i, log => writeLogs ps (i + 1) (setLog log p i)

/-- `LOG[1 .. element_count-1]` (R47): the writes for `i = 1 .. element_count-1`, then `LOG[1] <- 0`. For a generator
every cell is written, so the contents of the table before the writes do not matter (R11). -/
def logTable (w : Nat) (power : List Byte) : List Byte :=
  setLog (writeLogs (power.drop 1) 1 (List.replicate (elementCount w - 1) 0#8)) 1#8 0

/-- The field with the tables built from a chosen generator (R47). -/
def buildTables (w : Nat) (P g : Byte) : FieldCtx :=
  { w := w, poly := P, power := powerTable w P g, log := logTable w (powerTable w P g) }

/-- Field construction (R56): the order test, the search, the tables; the field and its generator. -/
def constructField (w : Nat) (P : Byte) : Except Err (FieldCtx × Byte) := do
  if w < Config.minOrder ∨ Config.maxOrder < w then throw .invalidOrder
  let g ← findGenerator w P
  return (buildTables w P g, g)

/-- `F.element_count` (R10). -/
def FieldCtx.count (F : FieldCtx) : Nat := elementCount F.w

/-- `F.POWER[i]`; every rule that reads it has `i < element_count`, where the cell exists (R11, log 3). -/
def FieldCtx.powerAt (F : FieldCtx) (i : Nat) : Byte := F.power.getD i 0#8

/-- `F.LOG[e]`; every rule that reads it has `1 ≤ e < element_count`, where the cell exists (R11, log 3). -/
def FieldCtx.logAt (F : FieldCtx) (e : Nat) : Byte := F.log.getD (e - 1) 0#8

/-- Addition and subtraction (R48). -/
def gfAdd (x y : Byte) : Byte := x ^^^ y

/-- Table multiplication (R49); the exponent sum is not truncated before the `mod`. -/
def gfMulTable (F : FieldCtx) (x y : Byte) : Byte :=
  if x = 0#8 ∨ y = 0#8 then 0#8
  else F.powerAt (((F.logAt x.toNat).toNat + (F.logAt y.toNat).toNat) % (F.count - 1))

/-- The exponent difference of R50, brought into `0 .. element_count-2`. -/
def logDiff (F : FieldCtx) (x y : Byte) : Nat :=
  ((((F.logAt x.toNat).toNat : Int) - ((F.logAt y.toNat).toNat : Int)) % ((F.count - 1 : Nat) : Int)).toNat

/-- The quotient of R50 for a nonzero divisor. -/
def gfQuot (F : FieldCtx) (x y : Byte) : Byte := if x = 0#8 then 0#8 else F.powerAt (logDiff F x y)

/-- Table division (R50); the test for a zero divisor comes first. -/
def gfDivTable (F : FieldCtx) (x y : Byte) : Except Err Byte :=
  if y = 0#8 then .error .divideByZero else .ok (gfQuot F x y)

end Sys2Proof.Machine
end

