-- ==== Sys2Proof/Machine/MatrixFns.lean ====
section
/-!
DEFINITION. The internal functions of the matrix unit (41_matrix.md R71 to R79).
-/

namespace Sys2Proof.Machine

/-- Entry `(r, c)`, at index `r * cols + c` (R17, R71). -/
def Mat.at (X : Mat) (r c : Nat) : Byte := X.e.getD (r * X.cols + c) 0#8

/-- Entry `(r, c)` replaced (R89). -/
def Mat.put (X : Mat) (r c : Nat) (v : Byte) : Mat := { X with e := X.e.set (r * X.cols + c) v }

/-- The matrix of the given shape whose entry `(r, c)` is `f r c`, laid out row-major (R71). -/
def Mat.build (rows cols : Nat) (f : Nat → Nat → Byte) : Mat :=
  { rows := rows, cols := cols, e := (List.range rows).flatMap fun r => (List.range cols).map (f r) }

/-- `mat_new` (R72). -/
def matNew (rows cols : Nat) (fill : Byte) : Except Err Mat :=
  if Config.maxDim < rows ∨ Config.maxDim < cols then .error .capacityExceeded
  else .ok { rows := rows, cols := cols, e := List.replicate (rows * cols) fill }

/-- `mat_identity` (R73). -/
def matIdentity (n : Nat) : Except Err Mat :=
  if n = 0 then .error .zeroSizeMatrix
  else if Config.maxDim < n then .error .capacityExceeded
  else .ok (Mat.build n n fun r c => if r = c then 1#8 else 0#8)

/-- `mat_colvec` (R74). -/
def matColvec (values : List Byte) : Mat := { rows := values.length, cols := 1, e := values }

/-- The element `x_i = 1 + i` of R75. -/
def cauchyX (i : Nat) : Byte := BitVec.ofNat 8 (1 + i)

/-- The element `y_j = 1 + rows + j` of R75. -/
def cauchyY (rows j : Nat) : Byte := BitVec.ofNat 8 (1 + rows + j)

/-- `mat_cauchy` (R75). In the loop the divisor is never zero (`cauchy_divisor_ne_zero`), so the division cannot fail
and its quotient is taken. -/
def matCauchy (F : FieldCtx) (rows cols : Nat) : Except Err Mat :=
  if Config.cauchyLimit < rows ∨ Config.cauchyLimit < cols then .error .tooManyFragments
  else if F.count < rows + cols then .error .fieldCapacityExceeded
  else if 1 ≤ rows ∧ 1 ≤ cols ∧ rows + cols = F.count then .error .operandOutOfField
  else .ok (Mat.build rows cols fun i j => gfQuot F 1#8 (gfAdd (cauchyX i) (cauchyY rows j)))

/-- `mat_append` (R77): the rows of `top` first. -/
def matAppend (top bottom : Mat) : Except Err Mat :=
  if top.cols ≠ bottom.cols then .error .shapeMismatch
  else if Config.maxDim < top.rows + bottom.rows then .error .capacityExceeded
  else .ok { rows := top.rows + bottom.rows, cols := top.cols, e := top.e ++ bottom.e }

/-- Some entry is no element of the field (R78). -/
def Mat.outOfField (X : Mat) (F : FieldCtx) : Bool := X.e.any fun v => decide (F.count ≤ v.toNat)

/-- The sum over `p` of `a[m][p] · b[n][p]` (R78): the contraction runs over the columns of both operands. -/
def rowProduct (F : FieldCtx) (a b : Mat) (m n : Nat) : Byte :=
  (List.range a.cols).foldl (fun acc p => gfAdd acc (gfMulTable F (a.at m p) (b.at n p))) 0#8

/-- `mat_mulf` (R78). -/
def matMulF (F : FieldCtx) (a b : Mat) : Except Err Mat :=
  if a.cols ≠ b.cols then .error .shapeMismatch
  else if a.outOfField F || b.outOfField F then .error .operandOutOfField
  else .ok (Mat.build a.rows b.rows (rowProduct F a b))

/-- `mat_tovec` (R79). -/
def matToVec (X : Mat) : List Byte := X.e

end Sys2Proof.Machine
end

