-- ==== Sys2Proof/Machine/Flags.lean ====
section
/-!
DEFINITION. The block's only condition state, STATUS and RESULT (10_state.md R21): the status codes (R122) and how
scalar results are put into the 32 bits of RESULT (R21, decision D30).
-/

namespace Sys2Proof.Machine

/-- The STATUS of success (R122). -/
def statusOk : Byte := 0x00#8

/-- The STATUS of an error (R122). -/
def Err.code : Err → Byte
  | .invalidOrder => 0x01#8
  | .noGeneratorFound => 0x02#8
  | .zeroSizeMatrix => 0x03#8
  | .tooManyFragments => 0x04#8
  | .fieldCapacityExceeded => 0x05#8
  | .sizeMismatch => 0x06#8
  | .divideByZero => 0x07#8
  | .shapeMismatch => 0x08#8
  | .noField => 0x09#8
  | .noCoder => 0x0A#8
  | .operandOutOfField => 0x0B#8
  | .matrixInvalid => 0x0C#8
  | .capacityExceeded => 0x0D#8
  | .indexOutOfRange => 0x0E#8
  | .illegalCommand => 0x0F#8

/-- A byte zero-extended to RESULT (R21). -/
def resultOfByte (v : Byte) : Result := v.zeroExtend 32

/-- A count or truth value in RESULT (R21). -/
def resultOfNat (n : Nat) : Result := BitVec.ofNat 32 n

/-- `(1 << 31) or (w << 8) or P`, the answer of `RDFLD` when a field exists (R67). -/
def resultOfField (F : FieldCtx) : Result :=
  (1#32 <<< 31) ||| (BitVec.ofNat 32 F.w <<< 8) ||| F.poly.zeroExtend 32

/-- `(hi << 16) or lo`, the answer of `MDIM` and `RSDIM` (R90, R104). -/
def resultOfPair (hi lo : Nat) : Result := (BitVec.ofNat 32 hi <<< 16) ||| BitVec.ofNat 32 lo

end Sys2Proof.Machine
end

