-- ==== Sys2Proof/Machine/Ops.lean ====
section
/-!
DEFINITION. The named operations over the state: giving a response, raising an error (R121), the matrix registers
(R17, R80), the buffers (R18), reset (R24, R112, R141), and the canonical form of the stores.
The block has no trap entry and no trap return (R126, R127): raising an error is its one exceptional operation, and
there is nothing to return from.
-/

namespace Sys2Proof.Machine

/-! ## Responses -/

/-- The response `(STATUS, RESULT)` of a command, presented on the response port (R21, R143, R144). -/
def respond (status : Byte) (result : Result) (s : State) : State :=
  { s with status := status, result := result, rspValid := true }

/-- `raise e` (R121): STATUS takes the error's code, RESULT is 0, and no other state of the block is written. -/
def raise (e : Err) (s : State) : State := respond e.code 0#32 s

/-- The end of a command (R121): a success has the writes of `r` and its RESULT; an error has none of them. -/
def complete (s : State) (r : Except Err (State × Result)) : Out :=
  match r with
  | .ok (t, v) => .next (respond statusOk v t)
  | .error e => .next (raise e s)

/-! ## Matrix registers -/

/-- The contents of a matrix register; none is `valid = 0` (R17). -/
def State.mat (s : State) : MReg → Option Mat
  | .m0 => s.m0
  | .m1 => s.m1
  | .m2 => s.m2
  | .m3 => s.m3

/-- `put_mat` (R80): `valid = 1`, both sizes and the entries, whole. -/
def State.putMat (s : State) (r : MReg) (X : Mat) : State :=
  match r with
  | .m0 => { s with m0 := some X }
  | .m1 => { s with m1 := some X }
  | .m2 => { s with m2 := some X }
  | .m3 => { s with m3 := some X }

/-! ## Buffers and contexts -/

/-- `DOUT <- v`, which also sets `OUT_LEN` (R18). -/
def State.putDout (s : State) (v : List Byte) : State := { s with dout := v }

/-- One byte appended to DIN, and `DIN_LEN` one more (R114). -/
def State.pushDin (s : State) (v : Byte) : State := { s with din := s.din ++ [v] }

/-- `DIN_LEN <- 0` (R113). -/
def State.clearDin (s : State) : State := { s with din := [] }

/-- The field context replaced whole (R13, R56). -/
def State.putField (s : State) (F : FieldCtx) : State := { s with field := some F }

/-- The coder context replaced whole (R101). -/
def State.putCoder (s : State) (C : Coder) : State := { s with coder := some C }

/-! ## Reset -/

/-- Every valid bit and both lengths cleared (R24, R112). What the host still gives the block stays the host's. -/
def State.clearAll (s : State) : State :=
  { s with field := none, coder := none, m0 := none, m1 := none, m2 := none, m3 := none, din := [], dout := [] }

/-- The reset by `rst_n` (R141): every piece of state at the value of R24, and no response is presented (log 4). -/
def hardReset (s : State) : State := { State.reset with host := s.host }

/-! ## Canonical form of the stores -/

/-- The tables of a field hold exactly the cells that exist (R11): `POWER[0 .. n-1]` and `LOG[1 .. n-1]`. -/
abbrev FieldCtx.wf (F : FieldCtx) : Prop :=
  F.power.length = F.count ∧ F.log.length = F.count - 1

/-- A matrix holds exactly the entries that exist, and its sizes are within the register's (R17). -/
abbrev Mat.wf (X : Mat) : Prop :=
  X.rows ≤ Config.maxDim ∧ X.cols ≤ Config.maxDim ∧ X.e.length = X.rows * X.cols

/-- The generator matrix holds exactly the entries that exist (R16), and the counts are legal (R14). -/
abbrev Coder.wf (C : Coder) : Prop :=
  1 ≤ C.dataNum ∧ C.dataNum + C.parityNum ≤ 255 ∧ C.g.length = (C.dataNum + C.parityNum) * C.dataNum

/-- The one form in which the storage spaces of R25 are held: each store has exactly the cells its index range names. -/
abbrev Memory.wf (s : State) : Prop :=
  (∀ F ∈ s.field, F.wf) ∧ (∀ C ∈ s.coder, C.wf) ∧
    (∀ X ∈ s.m0, X.wf) ∧ (∀ X ∈ s.m1, X.wf) ∧ (∀ X ∈ s.m2, X.wf) ∧ (∀ X ∈ s.m3, X.wf) ∧
    s.din.length ≤ Config.dinCap ∧ s.dout.length ≤ Config.doutCap

end Sys2Proof.Machine
end

