-- ==== Sys2Proof/Machine/Operands.lean ====
section
/-!
DEFINITION. How a command gets its operands: the contexts and registers it needs, and the tests on its scalar operands
(30_encoding.md R36, 40_field_engine.md R55, 41_matrix.md R80, 43_buffers_system.md R118, 60_exceptions.md R124).
-/

namespace Sys2Proof.Machine

/-- `need_field` (R55): the field context, or `NoField`. -/
def needField (s : State) : Except Err FieldCtx :=
  match s.field with
  | some F => .ok F
  | none => .error .noField

/-- The coder context, or `NoCoder` (R102). -/
def needCoder (s : State) : Except Err Coder :=
  match s.coder with
  | some C => .ok C
  | none => .error .noCoder

/-- `need_mat` (R80): the matrix value of a register, or `MatrixInvalid`. -/
def needMat (s : State) (r : MReg) : Except Err Mat :=
  match s.mat r with
  | some X => .ok X
  | none => .error .matrixInvalid

/-- `in_field` (R55): the scalar operand as a field element, or `OperandOutOfField`. -/
def inField (F : FieldCtx) (v : Nat) : Except Err Byte :=
  if F.count ≤ v then .error .operandOutOfField else .ok (BitVec.ofNat 8 v)

/-- A condition on an index or a count (R118): the error unless it holds. -/
def require (p : Prop) [Decidable p] (e : Err) : Except Err Unit := if p then .ok () else .error e

end Sys2Proof.Machine
end

