-- ==== Sys2Proof/Machine/CoderCmds.lean ====
section
/-!
DEFINITION. The commands of the Reed-Solomon encoder (42_reed_solomon.md section 2). They never read or write F.
-/

namespace Sys2Proof.Machine

/-- `RSNEW dataNum, parityNum` (R101): replaces C whole on success; RESULT is the codeword length. -/
def execRsnew (dataNum parityNum : Nat) (s : State) : Out := complete s do
  let C ← rsNew dataNum parityNum
  return (s.putCoder C, resultOfNat (dataNum + parityNum))

/-- `RSENC` (R102): the data is DIN, the codeword goes to DOUT. -/
def execRsenc (s : State) : Out := complete s do
  let C ← needCoder s
  let v ← rsEncode C s.din
  return (s.putDout v, resultOfNat v.length)

/-- `RSRDG r, col` (R103). -/
def execRsrdg (r col : Nat) (s : State) : Out := complete s do
  let C ← needCoder s
  require (r < C.dataNum + C.parityNum ∧ col < C.dataNum) .indexOutOfRange
  return (s, resultOfByte (C.gMat.at r col))

/-- `RSDIM` (R104). -/
def execRsdim (s : State) : Out := complete s do
  let C ← needCoder s
  return (s, resultOfPair C.dataNum C.parityNum)

end Sys2Proof.Machine
end

