-- ==== Sys2Proof/Machine/FieldCmds.lean ====
section
/-!
DEFINITION. The commands of the field engine (40_field_engine.md section 3), each written as its rule's pseudocode: the
tests in their order (R55, R124), then the result. An error writes nothing (R121, `complete`).
-/

namespace Sys2Proof.Machine

/-- `FIELD w, poly` (R56): replaces F whole on success; RESULT is the generator. -/
def execField (w : Nat) (poly : Byte) (s : State) : Out := complete s do
  let (F, g) ← constructField w poly
  return (s.putField F, resultOfByte g)

/-- `GFADD x, y` (R57). -/
def execGfadd (x y : Nat) (s : State) : Out := complete s do
  let F ← needField s
  let u ← inField F x
  let v ← inField F y
  return (s, resultOfByte (gfAdd u v))

/-- `GFSUB x, y` (R58). -/
def execGfsub (x y : Nat) (s : State) : Out := complete s do
  let F ← needField s
  let u ← inField F x
  let v ← inField F y
  return (s, resultOfByte (gfAdd u v))

/-- `GFMULD x, y` (R59): reads the order and the polynomial, never the tables. -/
def execGfmuld (x y : Nat) (s : State) : Out := complete s do
  let F ← needField s
  let u ← inField F x
  let v ← inField F y
  return (s, resultOfByte (gfMulDirect F.w F.poly u v))

/-- `GFMULT x, y` (R60). -/
def execGfmult (x y : Nat) (s : State) : Out := complete s do
  let F ← needField s
  let u ← inField F x
  let v ← inField F y
  return (s, resultOfByte (gfMulTable F u v))

/-- `GFDIVT x, y` (R61). -/
def execGfdivt (x y : Nat) (s : State) : Out := complete s do
  let F ← needField s
  let u ← inField F x
  let v ← inField F y
  let q ← gfDivTable F u v
  return (s, resultOfByte q)

/-- `ISGEN cand` (R62). -/
def execIsgen (cand : Nat) (s : State) : Out := complete s do
  let F ← needField s
  let c ← inField F cand
  return (s, if isGenerator F.w F.poly c then 1#32 else 0#32)

/-- `MINGEN` (R63). -/
def execMingen (s : State) : Out := complete s do
  let F ← needField s
  let g ← findGenerator F.w F.poly
  return (s, resultOfByte g)

/-- `ALLGEN` (R64). -/
def execAllgen (s : State) : Out := complete s do
  let F ← needField s
  let l := allGenerators F.w F.poly
  return (s.putDout l, resultOfNat l.length)

/-- `RDPOW i` (R65). -/
def execRdpow (i : Nat) (s : State) : Out := complete s do
  let F ← needField s
  require (i < F.count) .indexOutOfRange
  return (s, resultOfByte (F.powerAt i))

/-- `RDLOG e` (R66); element 0 has no logarithm. -/
def execRdlog (e : Nat) (s : State) : Out := complete s do
  let F ← needField s
  require (e ≠ 0 ∧ e < F.count) .indexOutOfRange
  return (s, resultOfByte (F.logAt e))

/-- `RDFLD` (R67): the one field command that does not raise `NoField`. -/
def execRdfld (s : State) : Out := complete s (.ok (s, (s.field.map resultOfField).getD 0#32))

end Sys2Proof.Machine
end

