-- ==== Sys2Proof/Machine/MatrixCmds.lean ====
section
/-!
DEFINITION. The commands of the matrix unit (41_matrix.md section 2). Sources are read whole before the destination is
written, so any registers may be equal (R80 (d)); a command that fails writes no register (R80 (c)).
-/

namespace Sys2Proof.Machine

/-- `MNEW Md, rows, cols, fill` (R81). -/
def execMnew (md : MReg) (rows cols : Nat) (fill : Byte) (s : State) : Out := complete s do
  let X ← matNew rows cols fill
  return (s.putMat md X, 0#32)

/-- `MIDENT Md, n` (R82). -/
def execMident (md : MReg) (n : Nat) (s : State) : Out := complete s do
  let X ← matIdentity n
  return (s.putMat md X, 0#32)

/-- `MCOLV Md` (R83). -/
def execMcolv (md : MReg) (s : State) : Out := complete s (.ok (s.putMat md (matColvec s.din), 0#32))

/-- `MCAUCHY Md, rows, cols` (R84). -/
def execMcauchy (md : MReg) (rows cols : Nat) (s : State) : Out := complete s do
  let F ← needField s
  let X ← matCauchy F rows cols
  return (s.putMat md X, 0#32)

/-- `MAPPEND Md, Ma, Mb` (R85). -/
def execMappend (md ma mb : MReg) (s : State) : Out := complete s do
  let T ← needMat s ma
  let B ← needMat s mb
  let X ← matAppend T B
  return (s.putMat md X, 0#32)

/-- `MMULF Md, Ma, Mb` (R86). -/
def execMmulf (md ma mb : MReg) (s : State) : Out := complete s do
  let F ← needField s
  let A ← needMat s ma
  let B ← needMat s mb
  let X ← matMulF F A B
  return (s.putMat md X, 0#32)

/-- `MTOVEC Ma` (R87). -/
def execMtovec (ma : MReg) (s : State) : Out := complete s do
  let A ← needMat s ma
  return (s.putDout (matToVec A), resultOfNat (A.rows * A.cols))

/-- `MRD Ma, r, col` (R88). -/
def execMrd (ma : MReg) (r col : Nat) (s : State) : Out := complete s do
  let A ← needMat s ma
  require (r < A.rows ∧ col < A.cols) .indexOutOfRange
  return (s, resultOfByte (A.at r col))

/-- `MWR Md, r, col, value` (R89). -/
def execMwr (md : MReg) (r col : Nat) (value : Byte) (s : State) : Out := complete s do
  let A ← needMat s md
  require (r < A.rows ∧ col < A.cols) .indexOutOfRange
  return (s.putMat md (A.put r col value), 0#32)

/-- `MDIM Ma` (R90). -/
def execMdim (ma : MReg) (s : State) : Out := complete s do
  let A ← needMat s ma
  return (s, resultOfPair A.rows A.cols)

end Sys2Proof.Machine
end

