-- ==== Sys2Proof/Machine/SystemCmds.lean ====
section
/-!
DEFINITION. System and buffer commands (43_buffers_system.md): `NOP`, `RESET`, `DCLR`, `DPUSH`, `RDOUT`, `RDOLEN`.
-/

namespace Sys2Proof.Machine

/-- `NOP` (R111). -/
def execNop (s : State) : Out := complete s (.ok (s, 0#32))

/-- `RESET` (R112): the state of R24, with the response `(0x00, 0)`. -/
def execReset (s : State) : Out := complete s (.ok (s.clearAll, 0#32))

/-- `DCLR` (R113). -/
def execDclr (s : State) : Out := complete s (.ok (s.clearDin, 0#32))

/-- `DPUSH byte` (R114): RESULT is the new length. -/
def execDpush (byte : Byte) (s : State) : Out := complete s do
  require (s.din.length < Config.dinCap) .capacityExceeded
  return (s.pushDin byte, resultOfNat (s.din.length + 1))

/-- `RDOUT i` (R115). -/
def execRdout (i : Nat) (s : State) : Out := complete s do
  require (i < s.dout.length) .indexOutOfRange
  return (s, resultOfByte (s.dout.getD i 0#8))

/-- `RDOLEN` (R116). -/
def execRdolen (s : State) : Out := complete s (.ok (s, resultOfNat s.dout.length))

end Sys2Proof.Machine
end

