-- ==== Sys2Proof/Machine/Dispatch.lean ====
section
/-!
DEFINITION. One arm per command: the meaning of a decoded command.
-/

namespace Sys2Proof.Machine

def exec (i : Instr) (s : State) : Host.Outcome State Fault Refusal :=
  match i with
  | .nop => Sys2Proof.Machine.execNop s
  | .reset => Sys2Proof.Machine.execReset s
  | .field w poly => Sys2Proof.Machine.execField w poly s
  | .gfadd x y => Sys2Proof.Machine.execGfadd x y s
  | .gfsub x y => Sys2Proof.Machine.execGfsub x y s
  | .gfmuld x y => Sys2Proof.Machine.execGfmuld x y s
  | .gfmult x y => Sys2Proof.Machine.execGfmult x y s
  | .gfdivt x y => Sys2Proof.Machine.execGfdivt x y s
  | .isgen cand => Sys2Proof.Machine.execIsgen cand s
  | .mingen => Sys2Proof.Machine.execMingen s
  | .allgen => Sys2Proof.Machine.execAllgen s
  | .rdpow n => Sys2Proof.Machine.execRdpow n s
  | .rdlog e => Sys2Proof.Machine.execRdlog e s
  | .rdfld => Sys2Proof.Machine.execRdfld s
  | .mnew md rows cols fill => Sys2Proof.Machine.execMnew md rows cols fill s
  | .mident md n => Sys2Proof.Machine.execMident md n s
  | .mcolv md => Sys2Proof.Machine.execMcolv md s
  | .mcauchy md rows cols => Sys2Proof.Machine.execMcauchy md rows cols s
  | .mappend md ma mb => Sys2Proof.Machine.execMappend md ma mb s
  | .mmulf md ma mb => Sys2Proof.Machine.execMmulf md ma mb s
  | .mtovec ma => Sys2Proof.Machine.execMtovec ma s
  | .mrd ma r col => Sys2Proof.Machine.execMrd ma r col s
  | .mwr md r col value => Sys2Proof.Machine.execMwr md r col value s
  | .mdim ma => Sys2Proof.Machine.execMdim ma s
  | .dclr => Sys2Proof.Machine.execDclr s
  | .dpush byte => Sys2Proof.Machine.execDpush byte s
  | .rdout n => Sys2Proof.Machine.execRdout n s
  | .rdolen => Sys2Proof.Machine.execRdolen s
  | .rsnew dataNum parityNum => Sys2Proof.Machine.execRsnew dataNum parityNum s
  | .rsenc => Sys2Proof.Machine.execRsenc s
  | .rsrdg r col => Sys2Proof.Machine.execRsrdg r col s
  | .rsdim => Sys2Proof.Machine.execRsdim s

end Sys2Proof.Machine
end

