-- ==== Sys2Proof/WellFormed.lean ====
section
/-!
DEFINITION. When a command has a word: its scalar operands fit the 16-bit fields `a` and `b` (R35, R36).
Register names and byte operands fit their fields by their types.
-/

namespace Sys2Proof

/-- The operand fits a 16-bit field of the command word (R35). -/
def fits16 (n : Nat) : Bool := n < 65536

/-- The command's operands fit the fields of the command word (R35, R36). -/
def Instr.wf : Instr → Bool
  | .nop | .reset | .mingen | .allgen | .rdfld => true
  | .field w _ => fits16 w
  | .gfadd x y | .gfsub x y | .gfmuld x y | .gfmult x y | .gfdivt x y => fits16 x && fits16 y
  | .isgen cand => fits16 cand
  | .rdpow i => fits16 i
  | .rdlog e => fits16 e
  | .mnew _ rows cols _ => fits16 rows && fits16 cols
  | .mident _ n => fits16 n
  | .mcolv _ | .mappend _ _ _ | .mmulf _ _ _ | .mtovec _ | .mdim _ => true
  | .mcauchy _ rows cols => fits16 rows && fits16 cols
  | .mrd _ r col => fits16 r && fits16 col
  | .mwr _ r col _ => fits16 r && fits16 col
  | .dclr | .dpush _ | .rdolen | .rsenc | .rsdim => true
  | .rdout i => fits16 i
  | .rsnew dataNum parityNum => fits16 dataNum && fits16 parityNum
  | .rsrdg r col => fits16 r && fits16 col

end Sys2Proof
end

