-- ==== Sys2Proof/Decode.lean ====
section
/-!
DEFINITION. The command word: its fields (R35), the opcode table (R37), the decoder, total on 64-bit words (R38, R41),
and the encoder written from the same table.
-/

namespace Sys2Proof

/-! ## Fields of a command word (R35) -/

/-- Bits 63:56, the opcode. -/
def opField (wd : Word) : Byte := wd.extractLsb' 56 8

/-- Bits 55:54, the destination register number. -/
def mdField (wd : Word) : BitVec 2 := wd.extractLsb' 54 2

/-- Bits 53:52, the first source register number. -/
def maField (wd : Word) : BitVec 2 := wd.extractLsb' 52 2

/-- Bits 51:50, the second source register number. -/
def mbField (wd : Word) : BitVec 2 := wd.extractLsb' 50 2

/-- Bits 49:40, reserved, zero in every command. -/
def zeroField (wd : Word) : BitVec 10 := wd.extractLsb' 40 10

/-- Bits 39:32, the byte operand. -/
def cField (wd : Word) : Byte := wd.extractLsb' 32 8

/-- Bits 31:16, the first scalar operand. -/
def aField (wd : Word) : BitVec 16 := wd.extractLsb' 16 16

/-- Bits 15:0, the second scalar operand. -/
def bField (wd : Word) : BitVec 16 := wd.extractLsb' 0 16

/-- The register a 2-bit field names (R36). -/
def MReg.ofBits (n : BitVec 2) : MReg :=
  if n = 0#2 then .m0 else if n = 1#2 then .m1 else if n = 2#2 then .m2 else .m3

/-- The number of a register in a 2-bit field (R36). -/
def MReg.toBits : MReg → BitVec 2
  | .m0 => 0#2
  | .m1 => 1#2
  | .m2 => 2#2
  | .m3 => 3#2

/-! ## The opcode table (R37) -/

/-- The 32 mnemonics of R37, by their own names. -/
inductive Mnemonic where
  | NOP | RESET
  | FIELD | GFADD | GFSUB | GFMULD | GFMULT | GFDIVT | ISGEN | MINGEN | ALLGEN | RDPOW | RDLOG | RDFLD
  | MNEW | MIDENT | MCOLV | MCAUCHY | MAPPEND | MMULF | MTOVEC | MRD | MWR | MDIM
  | DCLR | DPUSH | RDOUT | RDOLEN
  | RSNEW | RSENC | RSRDG | RSDIM
deriving DecidableEq, Repr

/-- All mnemonics, in the table's order. -/
def Mnemonic.all : List Mnemonic :=
  [.NOP, .RESET, .FIELD, .GFADD, .GFSUB, .GFMULD, .GFMULT, .GFDIVT, .ISGEN, .MINGEN, .ALLGEN, .RDPOW, .RDLOG, .RDFLD,
   .MNEW, .MIDENT, .MCOLV, .MCAUCHY, .MAPPEND, .MMULF, .MTOVEC, .MRD, .MWR, .MDIM,
   .DCLR, .DPUSH, .RDOUT, .RDOLEN, .RSNEW, .RSENC, .RSRDG, .RSDIM]

/-- The opcode of a mnemonic: column `op` of R37. -/
def Mnemonic.op : Mnemonic → Byte
  | .NOP => 0x00#8 | .RESET => 0x01#8
  | .FIELD => 0x10#8 | .GFADD => 0x11#8 | .GFSUB => 0x12#8 | .GFMULD => 0x13#8 | .GFMULT => 0x14#8 | .GFDIVT => 0x15#8
  | .ISGEN => 0x16#8 | .MINGEN => 0x17#8 | .ALLGEN => 0x18#8 | .RDPOW => 0x19#8 | .RDLOG => 0x1A#8 | .RDFLD => 0x1B#8
  | .MNEW => 0x20#8 | .MIDENT => 0x21#8 | .MCOLV => 0x22#8 | .MCAUCHY => 0x23#8 | .MAPPEND => 0x24#8 | .MMULF => 0x25#8
  | .MTOVEC => 0x26#8 | .MRD => 0x27#8 | .MWR => 0x28#8 | .MDIM => 0x29#8
  | .DCLR => 0x30#8 | .DPUSH => 0x31#8 | .RDOUT => 0x32#8 | .RDOLEN => 0x33#8
  | .RSNEW => 0x40#8 | .RSENC => 0x41#8 | .RSRDG => 0x42#8 | .RSDIM => 0x43#8

/-- The mnemonic an opcode selects; none for the 224 unassigned opcodes (R37, R38). -/
def Mnemonic.ofOp (op : Byte) : Option Mnemonic := Mnemonic.all.find? (fun m => m.op == op)

/-- Which operand fields a command uses: column `uses` of R37. -/
structure Uses where
  md : Bool := false
  ma : Bool := false
  mb : Bool := false
  c : Bool := false
  a : Bool := false
  b : Bool := false
deriving DecidableEq, Repr

/-- Column `uses` of R37. -/
def Mnemonic.uses : Mnemonic → Uses
  | .NOP => {}
  | .RESET => {}
  | .FIELD => { a := true, c := true }
  | .GFADD => { a := true, b := true }
  | .GFSUB => { a := true, b := true }
  | .GFMULD => { a := true, b := true }
  | .GFMULT => { a := true, b := true }
  | .GFDIVT => { a := true, b := true }
  | .ISGEN => { a := true }
  | .MINGEN => {}
  | .ALLGEN => {}
  | .RDPOW => { a := true }
  | .RDLOG => { a := true }
  | .RDFLD => {}
  | .MNEW => { md := true, a := true, b := true, c := true }
  | .MIDENT => { md := true, a := true }
  | .MCOLV => { md := true }
  | .MCAUCHY => { md := true, a := true, b := true }
  | .MAPPEND => { md := true, ma := true, mb := true }
  | .MMULF => { md := true, ma := true, mb := true }
  | .MTOVEC => { ma := true }
  | .MRD => { ma := true, a := true, b := true }
  | .MWR => { md := true, a := true, b := true, c := true }
  | .MDIM => { ma := true }
  | .DCLR => {}
  | .DPUSH => { c := true }
  | .RDOUT => { a := true }
  | .RDOLEN => {}
  | .RSNEW => { a := true, b := true }
  | .RSENC => {}
  | .RSRDG => { a := true, b := true }
  | .RSDIM => {}

/-- R38 (b) and (c): the reserved bits and every field the command does not use are zero. -/
def Uses.legal (u : Uses) (wd : Word) : Bool :=
  zeroField wd == 0#10 && (u.md || mdField wd == 0#2) && (u.ma || maField wd == 0#2) && (u.mb || mbField wd == 0#2) &&
    (u.c || cField wd == 0#8) && (u.a || aField wd == 0#16) && (u.b || bField wd == 0#16)

/-- The word with a 1 at every bit of a field the command uses; its complement is the row's `mask` (R37). -/
def Uses.bits (u : Uses) : Word :=
  (if u.md then 0x00C0000000000000#64 else 0#64) ||| (if u.ma then 0x0030000000000000#64 else 0#64) |||
    (if u.mb then 0x000C000000000000#64 else 0#64) ||| (if u.c then 0x000000FF00000000#64 else 0#64) |||
    (if u.a then 0x00000000FFFF0000#64 else 0#64) ||| (if u.b then 0x000000000000FFFF#64 else 0#64)

/-- The `mask` of a row of the opcode table (R37). -/
def Mnemonic.mask (m : Mnemonic) : Word := ~~~ m.uses.bits

/-- The `match` of a row of the opcode table, `op << 56` (R37). -/
def Mnemonic.matchWord (m : Mnemonic) : Word := m.op.zeroExtend 64 <<< 56

/-- The command a mnemonic makes of the operand fields (R36, R37): every field taken as it stands, unsigned. -/
def Mnemonic.build (m : Mnemonic) (md ma mb : MReg) (c : Byte) (a b : Nat) : Instr :=
  match m with
  | .NOP => .nop
  | .RESET => .reset
  | .FIELD => .field a c
  | .GFADD => .gfadd a b
  | .GFSUB => .gfsub a b
  | .GFMULD => .gfmuld a b
  | .GFMULT => .gfmult a b
  | .GFDIVT => .gfdivt a b
  | .ISGEN => .isgen a
  | .MINGEN => .mingen
  | .ALLGEN => .allgen
  | .RDPOW => .rdpow a
  | .RDLOG => .rdlog a
  | .RDFLD => .rdfld
  | .MNEW => .mnew md a b c
  | .MIDENT => .mident md a
  | .MCOLV => .mcolv md
  | .MCAUCHY => .mcauchy md a b
  | .MAPPEND => .mappend md ma mb
  | .MMULF => .mmulf md ma mb
  | .MTOVEC => .mtovec ma
  | .MRD => .mrd ma a b
  | .MWR => .mwr md a b c
  | .MDIM => .mdim ma
  | .DCLR => .dclr
  | .DPUSH => .dpush c
  | .RDOUT => .rdout a
  | .RDOLEN => .rdolen
  | .RSNEW => .rsnew a b
  | .RSENC => .rsenc
  | .RSRDG => .rsrdg a b
  | .RSDIM => .rsdim

/-- Decoding (R41): one of the 32 commands with its field values, or none for an illegal word (R38). -/
def decode (wd : Word) : Option Instr :=
  match Mnemonic.ofOp (opField wd) with
  | none => none
  | some m =>
    if m.uses.legal wd then
      some (m.build (MReg.ofBits (mdField wd)) (MReg.ofBits (maField wd)) (MReg.ofBits (mbField wd))
        (cField wd) (aField wd).toNat (bField wd).toNat)
    else none

/-! ## The encoder -/

/-- The mnemonic of a command (R37). -/
def Instr.mnemonic : Instr → Mnemonic
  | .nop => .NOP
  | .reset => .RESET
  | .field _ _ => .FIELD
  | .gfadd _ _ => .GFADD
  | .gfsub _ _ => .GFSUB
  | .gfmuld _ _ => .GFMULD
  | .gfmult _ _ => .GFMULT
  | .gfdivt _ _ => .GFDIVT
  | .isgen _ => .ISGEN
  | .mingen => .MINGEN
  | .allgen => .ALLGEN
  | .rdpow _ => .RDPOW
  | .rdlog _ => .RDLOG
  | .rdfld => .RDFLD
  | .mnew _ _ _ _ => .MNEW
  | .mident _ _ => .MIDENT
  | .mcolv _ => .MCOLV
  | .mcauchy _ _ _ => .MCAUCHY
  | .mappend _ _ _ => .MAPPEND
  | .mmulf _ _ _ => .MMULF
  | .mtovec _ => .MTOVEC
  | .mrd _ _ _ => .MRD
  | .mwr _ _ _ _ => .MWR
  | .mdim _ => .MDIM
  | .dclr => .DCLR
  | .dpush _ => .DPUSH
  | .rdout _ => .RDOUT
  | .rdolen => .RDOLEN
  | .rsnew _ _ => .RSNEW
  | .rsenc => .RSENC
  | .rsrdg _ _ => .RSRDG
  | .rsdim => .RSDIM

/-- The 64-bit word with the given fields, most significant field first, the reserved bits zero (R35). -/
def packWord (op : Byte) (md ma mb : MReg) (c : Byte) (a b : Nat) : Word :=
  op ++ md.toBits ++ ma.toBits ++ mb.toBits ++ 0#10 ++ c ++ BitVec.ofNat 16 a ++ BitVec.ofNat 16 b

/-- The command word of a command (R35, R37): unused fields are zero. -/
def encode : Instr → Word
  | .nop => packWord 0x00#8 .m0 .m0 .m0 0#8 0 0
  | .reset => packWord 0x01#8 .m0 .m0 .m0 0#8 0 0
  | .field w poly => packWord 0x10#8 .m0 .m0 .m0 poly w 0
  | .gfadd x y => packWord 0x11#8 .m0 .m0 .m0 0#8 x y
  | .gfsub x y => packWord 0x12#8 .m0 .m0 .m0 0#8 x y
  | .gfmuld x y => packWord 0x13#8 .m0 .m0 .m0 0#8 x y
  | .gfmult x y => packWord 0x14#8 .m0 .m0 .m0 0#8 x y
  | .gfdivt x y => packWord 0x15#8 .m0 .m0 .m0 0#8 x y
  | .isgen cand => packWord 0x16#8 .m0 .m0 .m0 0#8 cand 0
  | .mingen => packWord 0x17#8 .m0 .m0 .m0 0#8 0 0
  | .allgen => packWord 0x18#8 .m0 .m0 .m0 0#8 0 0
  | .rdpow i => packWord 0x19#8 .m0 .m0 .m0 0#8 i 0
  | .rdlog e => packWord 0x1A#8 .m0 .m0 .m0 0#8 e 0
  | .rdfld => packWord 0x1B#8 .m0 .m0 .m0 0#8 0 0
  | .mnew md rows cols fill => packWord 0x20#8 md .m0 .m0 fill rows cols
  | .mident md n => packWord 0x21#8 md .m0 .m0 0#8 n 0
  | .mcolv md => packWord 0x22#8 md .m0 .m0 0#8 0 0
  | .mcauchy md rows cols => packWord 0x23#8 md .m0 .m0 0#8 rows cols
  | .mappend md ma mb => packWord 0x24#8 md ma mb 0#8 0 0
  | .mmulf md ma mb => packWord 0x25#8 md ma mb 0#8 0 0
  | .mtovec ma => packWord 0x26#8 .m0 ma .m0 0#8 0 0
  | .mrd ma r col => packWord 0x27#8 .m0 ma .m0 0#8 r col
  | .mwr md r col value => packWord 0x28#8 md .m0 .m0 value r col
  | .mdim ma => packWord 0x29#8 .m0 ma .m0 0#8 0 0
  | .dclr => packWord 0x30#8 .m0 .m0 .m0 0#8 0 0
  | .dpush byte => packWord 0x31#8 .m0 .m0 .m0 byte 0 0
  | .rdout i => packWord 0x32#8 .m0 .m0 .m0 0#8 i 0
  | .rdolen => packWord 0x33#8 .m0 .m0 .m0 0#8 0 0
  | .rsnew dataNum parityNum => packWord 0x40#8 .m0 .m0 .m0 0#8 dataNum parityNum
  | .rsenc => packWord 0x41#8 .m0 .m0 .m0 0#8 0 0
  | .rsrdg r col => packWord 0x42#8 .m0 .m0 .m0 0#8 r col
  | .rsdim => packWord 0x43#8 .m0 .m0 .m0 0#8 0 0

/-- The command word whose low `nbits` bits are those of `w`, every bit above them zero. -/
def tableWord (nbits w : Nat) : Word := BitVec.ofNat 64 (w % 2 ^ nbits)

/-- The command the decoder reads from an opcode-table word: a command is one 64-bit value (R26, R35), so the word is
given to `decode` as it stands. -/
def decodeTableWord (nbits w : Nat) : Option Instr := decode (tableWord nbits w)

end Sys2Proof
end

