-- ==== Sys2Proof/Machine/Ports.lean ====
section
/-!
DEFINITION. The ports at transaction level (70_reset_and_hazards.md R143, R144), accepting what the host gives, and the
state between commands (R136).
-/

namespace Sys2Proof.Machine

/-- Port `cmd_valid`: the host offers a command word (R143). -/
def cmdValid (s : State) : Bool :=
  match s.host with
  | .command _ :: _ => true
  | _ => false

/-- Port `cmd_data`: the word offered, if one is (R143). -/
def cmdData (s : State) : Option Word :=
  match s.host with
  | .command wd :: _ => some wd
  | _ => none

/-- Port `rst_n`: low exactly when the host pulls it next (R141, R143). -/
def rstN (s : State) : Bool :=
  match s.host with
  | .reset :: _ => false
  | _ => true

/-- Port `cmd_ready`: a state is a moment between commands, at which the block is idle and accepts (R143, R144). -/
def cmdReady (_ : State) : Bool := true

/-- Port `rsp_status` shows STATUS (R143). -/
def rspStatus (s : State) : Byte := s.status

/-- Port `rsp_result` shows RESULT (R143). -/
def rspResult (s : State) : Result := s.result

/-- The response presented in this state, if one is (R143, R144). -/
def State.response (s : State) : Option (Byte × Result) := if s.rspValid then some (rspStatus s, rspResult s) else none

/-- What the host does next, and the state with it taken (R144); none when the host does nothing more. -/
def accept (s : State) : Option (HostEvent × State) :=
  match s.host with
  | [] => none
  | e :: rest => some (e, { s with host := rest })

/-- The block with nothing to do: it keeps all state (R136); the response of the last command was presented once
(R144, log 4). -/
def idle (s : State) : State := { s with rspValid := false }

/-- What an illegal command word does (R38): `IllegalCommand` and nothing else. -/
def illegalCommand (s : State) : State := raise .illegalCommand s

/-- The word offered next, ahead of whatever the host gives after it. -/
def State.offer (s : State) (wd : Word) : State := { s with host := .command wd :: s.host }

end Sys2Proof.Machine
end

