-- ==== Sys2Proof/Machine/Step.lean ====
section
/-!
DEFINITION. One step of the block (10_state.md R9, 70_reset_and_hazards.md R141, R144): accept what the host gives next
and execute it whole.
-/

namespace Sys2Proof.Machine

/-- One step: idle when the host gives nothing, reset between commands (R141), one command executed whole (R9); an
illegal word raises `IllegalCommand` before anything else is looked at (R38, R124). -/
def step (s : State) : Host.Outcome State Fault Refusal :=
  match accept s with
  | none => .next (idle s)
  | some (.reset, t) => .next (hardReset t)
  | some (.command wd, t) =>
    match decode wd with
    | none => .next (illegalCommand t)
    | some i => exec i t

/-- `s` with the command of an opcode-table word offered as the very next one (log 1). -/
def State.withFetchWord (s : State) (nbits w : Nat) : State := s.offer (tableWord nbits w)

end Sys2Proof.Machine
end

