-- ==== Sys2Proof/Machine/Assembler.lean ====
section
/-!
DEFINITION. The spec's notation for commands (30_encoding.md R40): printing a command, reading a line or a program, and
the one pseudo-command `DLOAD`. Text is a list of characters. What R40 leaves open about blanks and about numbers too
large for their field is log 8. The block itself knows nothing of this notation.
-/

namespace Sys2Proof.Machine

/-- One operand as it is written (R40): a register name or a number. -/
inductive AsmOperand where
  | reg (r : MReg)
  | num (n : Nat)
deriving DecidableEq, Repr

/-- The mnemonic as it is written (R37, R40). -/
def mnemonicText : Mnemonic → List Char
  | .NOP => ['N', 'O', 'P']
  | .RESET => ['R', 'E', 'S', 'E', 'T']
  | .FIELD => ['F', 'I', 'E', 'L', 'D']
  | .GFADD => ['G', 'F', 'A', 'D', 'D']
  | .GFSUB => ['G', 'F', 'S', 'U', 'B']
  | .GFMULD => ['G', 'F', 'M', 'U', 'L', 'D']
  | .GFMULT => ['G', 'F', 'M', 'U', 'L', 'T']
  | .GFDIVT => ['G', 'F', 'D', 'I', 'V', 'T']
  | .ISGEN => ['I', 'S', 'G', 'E', 'N']
  | .MINGEN => ['M', 'I', 'N', 'G', 'E', 'N']
  | .ALLGEN => ['A', 'L', 'L', 'G', 'E', 'N']
  | .RDPOW => ['R', 'D', 'P', 'O', 'W']
  | .RDLOG => ['R', 'D', 'L', 'O', 'G']
  | .RDFLD => ['R', 'D', 'F', 'L', 'D']
  | .MNEW => ['M', 'N', 'E', 'W']
  | .MIDENT => ['M', 'I', 'D', 'E', 'N', 'T']
  | .MCOLV => ['M', 'C', 'O', 'L', 'V']
  | .MCAUCHY => ['M', 'C', 'A', 'U', 'C', 'H', 'Y']
  | .MAPPEND => ['M', 'A', 'P', 'P', 'E', 'N', 'D']
  | .MMULF => ['M', 'M', 'U', 'L', 'F']
  | .MTOVEC => ['M', 'T', 'O', 'V', 'E', 'C']
  | .MRD => ['M', 'R', 'D']
  | .MWR => ['M', 'W', 'R']
  | .MDIM => ['M', 'D', 'I', 'M']
  | .DCLR => ['D', 'C', 'L', 'R']
  | .DPUSH => ['D', 'P', 'U', 'S', 'H']
  | .RDOUT => ['R', 'D', 'O', 'U', 'T']
  | .RDOLEN => ['R', 'D', 'O', 'L', 'E', 'N']
  | .RSNEW => ['R', 'S', 'N', 'E', 'W']
  | .RSENC => ['R', 'S', 'E', 'N', 'C']
  | .RSRDG => ['R', 'S', 'R', 'D', 'G']
  | .RSDIM => ['R', 'S', 'D', 'I', 'M']

/-- The operands of a command in the order of R40's table. -/
def asmOperands : Instr → List AsmOperand
  | .nop | .reset | .mingen | .allgen | .rdfld | .dclr | .rdolen | .rsenc | .rsdim => []
  | .field w poly => [.num w, .num poly.toNat]
  | .gfadd x y | .gfsub x y | .gfmuld x y | .gfmult x y | .gfdivt x y => [.num x, .num y]
  | .isgen cand => [.num cand]
  | .rdpow i => [.num i]
  | .rdlog e => [.num e]
  | .mnew md rows cols fill => [.reg md, .num rows, .num cols, .num fill.toNat]
  | .mident md n => [.reg md, .num n]
  | .mcolv md => [.reg md]
  | .mcauchy md rows cols => [.reg md, .num rows, .num cols]
  | .mappend md ma mb => [.reg md, .reg ma, .reg mb]
  | .mmulf md ma mb => [.reg md, .reg ma, .reg mb]
  | .mtovec ma => [.reg ma]
  | .mrd ma r col => [.reg ma, .num r, .num col]
  | .mwr md r col value => [.reg md, .num r, .num col, .num value.toNat]
  | .mdim ma => [.reg ma]
  | .dpush byte => [.num byte.toNat]
  | .rdout i => [.num i]
  | .rsnew dataNum parityNum => [.num dataNum, .num parityNum]
  | .rsrdg r col => [.num r, .num col]

/-- The name of a matrix register. -/
def regText : MReg → List Char
  | .m0 => ['M', '0']
  | .m1 => ['M', '1']
  | .m2 => ['M', '2']
  | .m3 => ['M', '3']

/-- An operand as text; numbers are written in decimal. -/
def operandText : AsmOperand → List Char
  | .reg r => regText r
  | .num n => Nat.toDigits 10 n

/-- Operands separated by commas (R40). -/
def operandsText : List AsmOperand → List Char
  | [] => []
  | [o] => operandText o
  | o :: os => operandText o ++ [',', ' '] ++ operandsText os

/-- A command as one line of text (R40). -/
def printInstr (i : Instr) : List Char :=
  match asmOperands i with
  | [] => mnemonicText i.mnemonic
  | os => mnemonicText i.mnemonic ++ [' '] ++ operandsText os

/-- `DLOAD b0, b1, …` (R40): `DCLR`, then one `DPUSH` per byte. -/
def dload (bytes : List Byte) : List Instr := .dclr :: bytes.map .dpush

/-! ## Reading -/

/-- Space, tab and carriage return (log 8). -/
def isBlankChar (c : Char) : Bool := c == ' ' || c == '\t' || c == '\r'

/-- Text without its leading and trailing blanks. -/
def trimBlanks (t : List Char) : List Char :=
  ((t.dropWhile isBlankChar).reverse.dropWhile isBlankChar).reverse

/-- Text cut at every `sep`. -/
def cutAt (sep : Char) : List Char → List (List Char)
  | [] => [[]]
  | c :: t =>
    match cutAt sep t with
    | [] => [[c]]
    | p :: ps => if c = sep then [] :: p :: ps else (c :: p) :: ps

/-- The value of a digit below `base`. -/
def digitValue (base : Nat) (c : Char) : Option Nat :=
  let v := if '0' ≤ c ∧ c ≤ '9' then c.toNat - '0'.toNat
    else if 'a' ≤ c ∧ c ≤ 'f' then c.toNat - 'a'.toNat + 10
    else if 'A' ≤ c ∧ c ≤ 'F' then c.toNat - 'A'.toNat + 10
    else base
  if v < base then some v else none

/-- A nonempty run of digits as a number. -/
def readDigits (base : Nat) : Nat → List Char → Option Nat
  | acc, [] => some acc
  | acc, c :: t =>
    match digitValue base c with
    | some v => readDigits base (acc * base + v) t
    | none => none

/-- A number, decimal or `0x` hexadecimal (R40). -/
def readNumber : List Char → Option Nat
  | [] => none
  | '0' :: 'x' :: c :: t => readDigits 16 0 (c :: t)
  | c :: t => readDigits 10 0 (c :: t)

/-- An operand: `M0` to `M3` or a number (R40). -/
def readOperand (t : List Char) : Option AsmOperand :=
  match t with
  | ['M', '0'] => some (.reg .m0)
  | ['M', '1'] => some (.reg .m1)
  | ['M', '2'] => some (.reg .m2)
  | ['M', '3'] => some (.reg .m3)
  | _ => (readNumber t).map .num

/-- All operands, or none if one is malformed. -/
def readOperands : List (List Char) → Option (List AsmOperand)
  | [] => some []
  | t :: ts =>
    match readOperand (trimBlanks t), readOperands ts with
    | some o, some os => some (o :: os)
    | _, _ => none

/-- Take a register operand if the command uses that field (R37). -/
def takeReg (used : Bool) (os : List AsmOperand) : Option (MReg × List AsmOperand) :=
  if used then
    match os with
    | .reg r :: t => some (r, t)
    | _ => none
  else some (.m0, os)

/-- Take a number below `bound` if the command uses that field (R37, log 8). -/
def takeNum (used : Bool) (bound : Nat) (os : List AsmOperand) : Option (Nat × List AsmOperand) :=
  if used then
    match os with
    | .num n :: t => if n < bound then some (n, t) else none
    | _ => none
  else some (0, os)

/-- The command a mnemonic makes of its written operands; in every row of R40's table they stand in the order
`md`, `ma`, `mb`, `a`, `b`, `c`. -/
def instrOfText (m : Mnemonic) (os : List AsmOperand) : Option Instr := do
  let (md, os) ← takeReg m.uses.md os
  let (ma, os) ← takeReg m.uses.ma os
  let (mb, os) ← takeReg m.uses.mb os
  let (a, os) ← takeNum m.uses.a 65536 os
  let (b, os) ← takeNum m.uses.b 65536 os
  let (c, os) ← takeNum m.uses.c 256 os
  if os.isEmpty then some (m.build md ma mb (BitVec.ofNat 8 c) a b) else none

/-- The bytes of a `DLOAD` line. -/
def bytesOfText : List AsmOperand → Option (List Byte)
  | [] => some []
  | .num n :: t => if n < 256 then (bytesOfText t).map (BitVec.ofNat 8 n :: ·) else none
  | .reg _ :: _ => none

/-- One line (R40): blank, a comment, a command, or a `DLOAD`; none if it is malformed. -/
def readLine (line : List Char) : Option (List Instr) :=
  let t := trimBlanks (line.takeWhile (· != '#'))
  if t.isEmpty then some []
  else
    let name := t.takeWhile (fun c => !isBlankChar c)
    let rest := trimBlanks (t.dropWhile (fun c => !isBlankChar c))
    match readOperands (if rest.isEmpty then [] else cutAt ',' rest) with
    | none => none
    | some os =>
      if name = ['D', 'L', 'O', 'A', 'D'] then (bytesOfText os).map dload
      else
        match Mnemonic.all.find? (fun m => mnemonicText m == name) with
        | some m => (instrOfText m os).map ([·])
        | none => none

/-- The commands of several lines, in order. -/
def readLines : List (List Char) → Option (List Instr)
  | [] => some []
  | l :: ls =>
    match readLine l, readLines ls with
    | some is, some js => some (is ++ js)
    | _, _ => none

/-- A program (R20, R40): one command per line. -/
def readProgram (text : List Char) : Option (List Instr) := readLines (cutAt '\n' text)

/-- A program as the command words the host gives (R20). -/
def assemble (text : List Char) : Option (List Word) := (readProgram text).map (·.map encode)

end Sys2Proof.Machine
end

