-- ==== Sys2Proof/Safety.lean ====
section
/-!
DEFINITION. The terms claims are stated in: the two ways a command can answer (R121), the invariant of the block
(R12, R14, R16, R17, R18, R122), and runs with their responses (R20, R31, R144).
-/

namespace Sys2Proof.Machine

/-! ## Answers -/

/-- `s` after a command that succeeds with RESULT `v` and writes nothing else (R21, R122). -/
def answerOk (v : Nat) (s : State) : State :=
  { s with status := 0x00#8, result := BitVec.ofNat 32 v, rspValid := true }

/-- `s` after a command that raises the error with the given code (R121, R122). -/
def answerErr (code : Byte) (s : State) : State := { s with status := code, result := 0x00000000#32, rspValid := true }

end Sys2Proof.Machine

namespace Sys2Proof

/-! ## The commands by what they need (R55, R80, R122) -/

/-- The commands that need a constructed field (R55, R80): R122's list for `NoField`. -/
def Instr.needsField : Instr → Bool
  | .gfadd _ _ | .gfsub _ _ | .gfmuld _ _ | .gfmult _ _ | .gfdivt _ _ | .isgen _ | .mingen | .allgen | .rdpow _ | .rdlog _ => true
  | .mcauchy _ _ _ | .mmulf _ _ _ => true
  | .nop | .reset | .field _ _ | .rdfld | .mnew _ _ _ _ | .mident _ _ | .mcolv _ | .mappend _ _ _ | .mtovec _ | .mrd _ _ _ => false
  | .mwr _ _ _ _ | .mdim _ | .dclr | .dpush _ | .rdout _ | .rdolen | .rsnew _ _ | .rsenc | .rsrdg _ _ | .rsdim => false

/-- The commands that need a built encoder: R122's list for `NoCoder`. -/
def Instr.needsCoder : Instr → Bool
  | .rsenc | .rsrdg _ _ | .rsdim => true
  | .nop | .reset | .field _ _ | .gfadd _ _ | .gfsub _ _ | .gfmuld _ _ | .gfmult _ _ | .gfdivt _ _ | .isgen _ | .mingen => false
  | .allgen | .rdpow _ | .rdlog _ | .rdfld | .mnew _ _ _ _ | .mident _ _ | .mcolv _ | .mcauchy _ _ _ | .mappend _ _ _ => false
  | .mmulf _ _ _ | .mtovec _ | .mrd _ _ _ | .mwr _ _ _ _ | .mdim _ | .dclr | .dpush _ | .rdout _ | .rdolen | .rsnew _ _ => false

/-- The matrix registers a command needs valid, in the order it tests them (R80 (b)). -/
def Instr.needsMats : Instr → List MReg
  | .mappend _ ma mb | .mmulf _ ma mb => [ma, mb]
  | .mtovec ma | .mrd ma _ _ | .mdim ma => [ma]
  | .mwr md _ _ _ => [md]
  | .nop | .reset | .field _ _ | .gfadd _ _ | .gfsub _ _ | .gfmuld _ _ | .gfmult _ _ | .gfdivt _ _ | .isgen _ | .mingen => []
  | .allgen | .rdpow _ | .rdlog _ | .rdfld | .mnew _ _ _ _ | .mident _ _ | .mcolv _ | .mcauchy _ _ _ => []
  | .dclr | .dpush _ | .rdout _ | .rdolen | .rsnew _ _ | .rsenc | .rsrdg _ _ | .rsdim => []

/-- The scalar operands a command tests against the field before anything particular to it (R55 (b), R124). -/
def Instr.elements : Instr → List Nat
  | .gfadd x y | .gfsub x y | .gfmuld x y | .gfmult x y | .gfdivt x y => [x, y]
  | .isgen cand => [cand]
  | .nop | .reset | .field _ _ | .mingen | .allgen | .rdpow _ | .rdlog _ | .rdfld | .mnew _ _ _ _ | .mident _ _ => []
  | .mcolv _ | .mcauchy _ _ _ | .mappend _ _ _ | .mmulf _ _ _ | .mtovec _ | .mrd _ _ _ | .mwr _ _ _ _ | .mdim _ => []
  | .dclr | .dpush _ | .rdout _ | .rdolen | .rsnew _ _ | .rsenc | .rsrdg _ _ | .rsdim => []

/-- The matrix register a command writes (R80 (a)). -/
def Instr.matWritten : Instr → Option MReg
  | .mnew md _ _ _ | .mident md _ | .mcolv md | .mcauchy md _ _ | .mappend md _ _ | .mmulf md _ _ | .mwr md _ _ _ => some md
  | .nop | .reset | .field _ _ | .gfadd _ _ | .gfsub _ _ | .gfmuld _ _ | .gfmult _ _ | .gfdivt _ _ | .isgen _ | .mingen => none
  | .allgen | .rdpow _ | .rdlog _ | .rdfld | .mtovec _ | .mrd _ _ _ | .mdim _ => none
  | .dclr | .dpush _ | .rdout _ | .rdolen | .rsnew _ _ | .rsenc | .rsrdg _ _ | .rsdim => none

/-- The status codes a command can answer with once its word is legal: column "raised by" of R122, and `OK`. -/
def Instr.codes : Instr → List Byte
  | .nop | .reset | .rdfld | .mcolv _ | .dclr | .rdolen => [0x00#8]
  | .field _ _ => [0x00#8, 0x01#8, 0x02#8]
  | .gfadd _ _ | .gfsub _ _ | .gfmuld _ _ | .gfmult _ _ | .isgen _ => [0x00#8, 0x09#8, 0x0B#8]
  | .gfdivt _ _ => [0x00#8, 0x07#8, 0x09#8, 0x0B#8]
  | .mingen | .allgen => [0x00#8, 0x09#8]
  | .rdpow _ | .rdlog _ => [0x00#8, 0x09#8, 0x0E#8]
  | .mnew _ _ _ _ => [0x00#8, 0x0D#8]
  | .mident _ _ => [0x00#8, 0x03#8, 0x0D#8]
  | .mcauchy _ _ _ => [0x00#8, 0x04#8, 0x05#8, 0x09#8, 0x0B#8]
  | .mappend _ _ _ => [0x00#8, 0x08#8, 0x0C#8, 0x0D#8]
  | .mmulf _ _ _ => [0x00#8, 0x08#8, 0x09#8, 0x0B#8, 0x0C#8]
  | .mtovec _ | .mdim _ => [0x00#8, 0x0C#8]
  | .mrd _ _ _ | .mwr _ _ _ _ => [0x00#8, 0x0C#8, 0x0E#8]
  | .dpush _ => [0x00#8, 0x0D#8]
  | .rdout _ => [0x00#8, 0x0E#8]
  | .rsnew _ _ => [0x00#8, 0x03#8, 0x04#8, 0x05#8, 0x0B#8]
  | .rsenc => [0x00#8, 0x06#8, 0x0A#8]
  | .rsrdg _ _ => [0x00#8, 0x0A#8, 0x0E#8]
  | .rsdim => [0x00#8, 0x0A#8]

end Sys2Proof

namespace Sys2Proof.Machine

/-! ## The invariant -/

/-- What holds of a constructed field (R10, R12), with `n = F.count`. -/
structure FieldCtx.Inv (F : FieldCtx) : Prop where
  /-- No field of order 1 exists (R10, R54). -/
  order : 2 ≤ F.w ∧ F.w ≤ 8
  /-- Exactly the cells that exist (R11). -/
  sizes : F.wf
  /-- `POWER[0] = 1` and `POWER[n-1] = 1`. -/
  powerEnds : F.powerAt 0 = 1#8 ∧ F.powerAt (F.count - 1) = 1#8
  /-- `LOG[1] = 0`. -/
  logOne : F.logAt 1 = 0#8
  /-- The table entries are nonzero elements. -/
  powerRange : ∀ i < F.count, 1 ≤ (F.powerAt i).toNat ∧ (F.powerAt i).toNat < F.count
  /-- `POWER[1 .. n-1]` is a permutation of `1 .. n-1`: no value twice … -/
  powerDistinct : ∀ i j, 1 ≤ i → i < F.count → 1 ≤ j → j < F.count → F.powerAt i = F.powerAt j → i = j
  /-- … and every value once. -/
  powerOnto : ∀ e, 1 ≤ e → e < F.count → ∃ i, 1 ≤ i ∧ i < F.count ∧ (F.powerAt i).toNat = e
  /-- `LOG[POWER[i]] = i` for `i` in `1 .. n-2`. -/
  logOfPower : ∀ i, 1 ≤ i → i ≤ F.count - 2 → (F.logAt (F.powerAt i).toNat).toNat = i
  /-- `POWER[LOG[e]] = e` for every nonzero element, and `LOG[e]` is in `0 .. n-2`. -/
  powerOfLog : ∀ e, 1 ≤ e → e < F.count → (F.powerAt (F.logAt e).toNat).toNat = e ∧ (F.logAt e).toNat ≤ F.count - 2
  /-- The construction gives this field, and `POWER[1]` is the generator it chose. -/
  constructed : constructField F.w F.poly = .ok (F, F.powerAt 1)

/-- What holds of a built encoder (R14, R16): legal counts, and the generator matrix `rs_new` gives for them. -/
structure Coder.Inv (C : Coder) : Prop where
  sizes : C.wf
  built : rsNew C.dataNum C.parityNum = .ok C

/-- The invariant of the block: every store is in its form (R11, R16, R17, R18), a valid field and a valid encoder are
as their construction leaves them (R12, R16), STATUS is a code of R122, and an error has RESULT 0 (R121). -/
structure State.Inv (s : State) : Prop where
  memory : Memory.wf s
  field : ∀ F, s.field = some F → F.Inv
  coder : ∀ C, s.coder = some C → C.Inv
  statusCode : s.status.toNat ≤ 0x0F
  errorResult : s.status ≠ 0x00#8 → s.result = 0#32

/-! ## Runs -/

/-- The state after `k` steps; a step that did not answer a next state would leave it as it is. -/
def runState : Nat → State → State
  | 0, s => s
  | k + 1, s =>
    match step s with
    | .next t => runState k t
    | .fault _ => s
    | .refused _ => s

/-- The responses presented in `k` steps, in order (R144). -/
def runResponses : Nat → State → List (Byte × Result)
  | 0, _ => []
  | k + 1, s =>
    match step s with
    | .next t => t.response.toList ++ runResponses k t
    | .fault _ => []
    | .refused _ => []

/-- The host gives exactly these command words and nothing else (R20, U10). -/
def State.withProgram (s : State) (words : List Word) : State := { s with host := words.map .command }

end Sys2Proof.Machine
end

