-- ==== Sys2Proof/Certificates/Slice0/Obligations.lean ====
section
/-!
DEFINITION. The statements about the model, for the provers. Each docstring names the rule it formalises.
`answerOk v s` is `s` with `STATUS = 0x00`, `RESULT = v`, a response presented, and every other part as in `s`;
`answerErr c s` is `s` with `STATUS = c`, `RESULT = 0`, a response presented, and every other part as in `s` (R21, R121,
R144). So a statement `exec i s = .next (answerOk v t)` also says what the command leaves unchanged.
-/

open Sys2Proof Sys2Proof.Machine

/-! ## Encoding -/

/-- Decoding the word of a command gives the command back, for every command with operands that fit their fields
(R35, R36, R41). -/
def Obligations.DecodeInvertsEncode : Prop :=
  ∀ i : Instr, i.wf = true → decode (encode i) = some i

/-- A legal word is the one word of the command it decodes to, whose operands fit their fields (R35, R36, R41). -/
def Obligations.EncodeInvertsDecode : Prop :=
  ∀ (wd : Word) (i : Instr), decode wd = some i → i.wf = true ∧ encode i = wd

/-- Decoding is R41's pseudocode: select the row by bits 63:56, compare the word with the row's mask and match (R37),
and read the operand fields at R35's positions. -/
def Obligations.DecoderIsMaskAndMatch : Prop :=
  ∀ wd : Word, decode wd =
    match Mnemonic.ofOp (wd.extractLsb 63 56) with
    | none => none
    | some m =>
      if wd &&& m.mask = m.matchWord then
        some (m.build (MReg.ofBits (wd.extractLsb 55 54)) (MReg.ofBits (wd.extractLsb 53 52))
          (MReg.ofBits (wd.extractLsb 51 50)) (wd.extractLsb 39 32) (wd.extractLsb 31 16).toNat
          (wd.extractLsb 15 0).toNat)
      else none

/-- Example words of R37, R56, R58, R81 to R90, R101, R103, R114 and R115 decode to the commands they stand for. -/
def Obligations.SpecWordsDecode : Prop :=
  decode 0x14000000005300CA#64 = some (.gfmult 0x53 0xCA) ∧
  decode 0x252C000000000000#64 = some (.mmulf .m0 .m2 .m3) ∧
  decode 0x1000000B00030000#64 = some (.field 3 0x0B#8) ∧
  decode 0x1200000000050006#64 = some (.gfsub 5 6) ∧
  decode 0x20C0000000010003#64 = some (.mnew .m3 1 3 0#8) ∧
  decode 0x2484000000000000#64 = some (.mappend .m2 .m0 .m1) ∧
  decode 0x2710000000010003#64 = some (.mrd .m1 1 3) ∧
  decode 0x28C0002200000001#64 = some (.mwr .m3 0 1 0x22#8) ∧
  decode 0x3100001000000000#64 = some (.dpush 0x10#8) ∧
  decode 0x32000000000A0000#64 = some (.rdout 10) ∧
  decode 0x40000000000A0002#64 = some (.rsnew 10 2) ∧
  decode 0x42000000000A0000#64 = some (.rsrdg 10 0) ∧
  decode 0x0000000000000000#64 = some .nop ∧ decode 0xFFFFFFFFFFFFFFFF#64 = none

/-- R38: whatever the state is, an offered word that (a) has an unassigned opcode, or (b) a nonzero reserved field, or
(c) a nonzero field its command does not use, raises `IllegalCommand` and changes nothing else. -/
def Obligations.IllegalWordsRaiseIllegalCommand : Prop :=
  ∀ (s : State) (wd : Word),
    ((∀ m : Mnemonic, m.op ≠ opField wd) → step (s.offer wd) = .next (answerErr 0x0F#8 s)) ∧
    (zeroField wd ≠ 0#10 → step (s.offer wd) = .next (answerErr 0x0F#8 s)) ∧
    (∀ m : Mnemonic, m.op = opField wd →
      (m.uses.md = false ∧ mdField wd ≠ 0#2 ∨ m.uses.ma = false ∧ maField wd ≠ 0#2 ∨
        m.uses.mb = false ∧ mbField wd ≠ 0#2 ∨ m.uses.c = false ∧ cField wd ≠ 0#8 ∨
        m.uses.a = false ∧ aField wd ≠ 0#16 ∨ m.uses.b = false ∧ bField wd ≠ 0#16) →
      step (s.offer wd) = .next (answerErr 0x0F#8 s))

/-- A printed command reads back as itself (R40), and `DLOAD` is `DCLR` followed by one `DPUSH` per byte (R40). How
blanks and too large numbers are read is the model's choice (log 8). -/
def Obligations.PrintedCommandsReadBack : Prop :=
  (∀ i : Instr, i.wf = true → readLine (printInstr i) = some [i]) ∧
  ∀ bytes : List Byte, dload bytes = Instr.dclr :: bytes.map Instr.dpush

/-! ## Steps -/

/-- A step runs the decoded command: when the word the host offers next decodes to `i`, the step is `exec i` of the
state with that word taken (R9, R20, R144). There is no program counter to advance (R20). -/
def Obligations.OfferedCommandIsExecuted : Prop :=
  ∀ (s : State) (wd : Word) (rest : List HostEvent) (i : Instr), decode wd = some i →
    step { s with host := .command wd :: rest } = exec i { s with host := rest }

/-- With nothing given by the host the block is idle and keeps all state (R136); that the response port falls back then
is the model's choice (log 4). -/
def Obligations.IdleKeepsAllState : Prop :=
  ∀ s : State, step { s with host := [] } = .next { s with host := [], rspValid := false }

/-- R24: the reset by `rst_n` between commands puts every valid bit and both lengths at 0, `STATUS` at `0x00` and
`RESULT` at 0, and so does `State.reset`. -/
def Obligations.HardResetReachesResetState : Prop :=
  (∀ (s : State) (rest : List HostEvent), ∃ t, step { s with host := .reset :: rest } = .next t ∧
    t.field = none ∧ t.coder = none ∧ (∀ r, t.mat r = none) ∧ t.din.length = 0 ∧ t.dout.length = 0 ∧
    t.status = 0x00#8 ∧ t.result = 0x00000000#32 ∧ t.host = rest) ∧
  State.reset.field = none ∧ State.reset.coder = none ∧ (∀ r, State.reset.mat r = none) ∧
    State.reset.din.length = 0 ∧ State.reset.dout.length = 0 ∧
    State.reset.status = 0x00#8 ∧ State.reset.result = 0x00000000#32

/-- R144: a run on a list of command words gives one response per word, in order, the `k`-th response being STATUS and
RESULT after the `k`-th command, and uses up the list; every single command answers exactly one response. -/
def Obligations.OneResponsePerCommandInOrder : Prop :=
  (∀ (i : Instr) (s : State), ∃ t, exec i s = .next t ∧ t.rspValid = true ∧ t.host = s.host) ∧
  ∀ (s : State) (words : List Word),
    (runState words.length (s.withProgram words)).host = [] ∧
    (runResponses words.length (s.withProgram words)).length = words.length ∧
    ∀ k < words.length, (runResponses words.length (s.withProgram words))[k]? =
      some ((runState (k + 1) (s.withProgram words)).status, (runState (k + 1) (s.withProgram words)).result)

/-! ## System and buffer commands -/

/-- R111: `NOP` is the all-zero word and writes only the response. -/
def Obligations.NopWritesOnlyTheResponse : Prop :=
  encode .nop = 0x0000000000000000#64 ∧ ∀ s : State, exec .nop s = .next (answerOk 0 s)

/-- R112: `RESET` puts every piece of state at the value of R24, with the response `(0x00, 0)`. -/
def Obligations.ResetCommandClearsEverything : Prop :=
  encode .reset = 0x0100000000000000#64 ∧
  ∀ s : State, exec .reset s = .next (answerOk 0
    { s with field := none, coder := none, m0 := none, m1 := none, m2 := none, m3 := none, din := [], dout := [] })

/-- R113, R114: `DCLR` starts a new input sequence; `DPUSH` appends its byte and answers the new length, or raises
`CapacityExceeded` when 256 bytes are held. -/
def Obligations.InputBufferCommands : Prop :=
  encode .dclr = 0x3000000000000000#64 ∧
  (∀ s : State, exec .dclr s = .next (answerOk 0 { s with din := [] })) ∧
  (∀ byte : Byte, encode (.dpush byte) = packWord 0x31#8 .m0 .m0 .m0 byte 0 0) ∧
  ∀ (byte : Byte) (s : State), exec (.dpush byte) s = .next
    (if s.din.length < 256 then answerOk (s.din.length + 1) { s with din := s.din ++ [byte] }
     else answerErr 0x0D#8 s)

/-- R115, R116: `RDOUT` reads a byte of the output sequence without consuming it, or raises `IndexOutOfRange`; `RDOLEN`
reads its length. -/
def Obligations.OutputBufferCommands : Prop :=
  (∀ i : Nat, encode (.rdout i) = packWord 0x32#8 .m0 .m0 .m0 0#8 i 0) ∧
  (∀ (i : Nat) (s : State), exec (.rdout i) s = .next
    (match s.dout[i]? with
     | some v => answerOk v.toNat s
     | none => answerErr 0x0E#8 s)) ∧
  encode .rdolen = 0x3300000000000000#64 ∧
  ∀ s : State, exec .rdolen s = .next (answerOk s.dout.length s)

/-! ## Field commands -/

/-- R46, R47, R56: `FIELD` raises `InvalidOrder` for an order outside `1 .. 8`, `NoGeneratorFound` when no candidate
`2 .. 2^w - 1` qualifies, and otherwise replaces the field whole by the tables of the smallest qualifying candidate and
answers it. On an error the field is as before. `FIELD 8, 0x1D` gives the encoder's constant field (R15, R56). -/
def Obligations.FieldConstructsFromSmallestGenerator : Prop :=
  (∀ w poly, encode (.field w poly) = packWord 0x10#8 .m0 .m0 .m0 poly w 0) ∧
  ∀ (s : State) (w : Nat) (P : Byte),
    (w < 1 ∨ 8 < w → exec (.field w P) s = .next (answerErr 0x01#8 s)) ∧
    (1 ≤ w → w ≤ 8 → (∀ g, 2 ≤ g → g ≤ 2 ^ w - 1 → isGenerator w P (BitVec.ofNat 8 g) = false) →
      exec (.field w P) s = .next (answerErr 0x02#8 s)) ∧
    ∀ g, 1 ≤ w → w ≤ 8 → 2 ≤ g → g ≤ 2 ^ w - 1 → isGenerator w P (BitVec.ofNat 8 g) = true →
      (∀ h, 2 ≤ h → h < g → isGenerator w P (BitVec.ofNat 8 h) = false) →
      ∃ F : FieldCtx, exec (.field w P) s = .next (answerOk g { s with field := some F }) ∧
        F.w = w ∧ F.poly = P ∧ F.power.length = 2 ^ w ∧ F.log.length = 2 ^ w - 1 ∧
        F.powerAt 0 = 1#8 ∧ F.powerAt 1 = BitVec.ofNat 8 g ∧
        (∀ i, 1 ≤ i → i ≤ 2 ^ w - 1 → F.powerAt i = gfMulDirect w P (F.powerAt (i - 1)) (BitVec.ofNat 8 g)) ∧
        F.logAt 1 = 0#8 ∧
        (∀ i, 1 ≤ i → i ≤ 2 ^ w - 2 → F.logAt (F.powerAt i).toNat = BitVec.ofNat 8 i) ∧
        (w = 8 → P = 0x1D#8 → F = coderField)

/-- R54: order 1 passes the order test and then fails with `NoGeneratorFound` for every polynomial byte, and no state
that meets the invariant has a field of order 1. -/
def Obligations.OrderOneIsNeverConstructed : Prop :=
  (∀ (P : Byte) (s : State), exec (.field 1 P) s = .next (answerErr 0x02#8 s)) ∧
  ∀ (s : State) (F : FieldCtx), s.Inv → s.field = some F → F.w ≠ 1

/-- R55: every command that needs the field raises `NoField` without one; then each of `GFADD`, `GFSUB`, `GFMULD`,
`GFMULT`, `GFDIVT`, `ISGEN` raises `OperandOutOfField` for an operand that is no element. -/
def Obligations.FieldAndOperandTests : Prop :=
  (∀ (i : Instr) (s : State), i.needsField = true → s.field = none → exec i s = .next (answerErr 0x09#8 s)) ∧
  ∀ (i : Instr) (s : State) (F : FieldCtx) (x : Nat), s.field = some F → x ∈ i.elements → 2 ^ F.w ≤ x →
    exec i s = .next (answerErr 0x0B#8 s)

/-- R48, R57, R58: addition and subtraction are the exclusive or of two elements, after the tests of R55. The premise is
R10's bound on the order, which every step keeps. -/
def Obligations.AddAndSubtractAreXor : Prop :=
  (∀ x y, encode (.gfadd x y) = packWord 0x11#8 .m0 .m0 .m0 0#8 x y) ∧
  (∀ x y, encode (.gfsub x y) = packWord 0x12#8 .m0 .m0 .m0 0#8 x y) ∧
  ∀ (s : State) (x y : Nat), (∀ F, s.field = some F → F.w ≤ 8) →
    exec (.gfadd x y) s = .next
      (match s.field with
       | none => answerErr 0x09#8 s
       | some F => if x < 2 ^ F.w ∧ y < 2 ^ F.w then answerOk (x ^^^ y) s else answerErr 0x0B#8 s) ∧
    exec (.gfsub x y) s = exec (.gfadd x y) s

/-- R43: a doubling is an 8-bit shift, with the polynomial XORed in iff bit `w-1` was set; for a well-formed polynomial
byte (R42) and an element the result is an element. -/
def Obligations.DoublingShiftsAndReduces : Prop :=
  ∀ (w : Nat) (P v : Byte), 1 ≤ w → w ≤ 8 →
    (gfDbl w P v).toNat = (if v.toNat.testBit (w - 1) then (v.toNat <<< 1) % 256 ^^^ P.toNat else (v.toNat <<< 1) % 256) ∧
    ((w = 8 ∨ P.toNat >>> w = 1) → v.toNat < 2 ^ w → (gfDbl w P v).toNat < 2 ^ w)

/-- R44, R59: direct multiplication is the XOR of the doubled values `x·2^0 .. x·2^7` selected by the set bits of `y`;
it reads the order and the polynomial and never the tables. -/
def Obligations.DirectMultiplyIsShiftAndReduce : Prop :=
  (∀ x y, encode (.gfmuld x y) = packWord 0x13#8 .m0 .m0 .m0 0#8 x y) ∧
  ∀ (s : State) (x y : Nat),
    exec (.gfmuld x y) s = .next
      (match s.field with
       | none => answerErr 0x09#8 s
       | some F =>
         if x < 2 ^ F.w ∧ y < 2 ^ F.w then
           answerOk ((List.range 8).foldl
             (fun acc i => if y.testBit i then acc ^^^ (gfDbl F.w F.poly)^[i] (BitVec.ofNat 8 x) else acc) 0#8).toNat s
         else answerErr 0x0B#8 s)

/-- R49, R60: table multiplication is 0 for a zero operand and otherwise adds the exponents modulo `element_count - 1`.
The premise is R10's bound on the order, which every step keeps. -/
def Obligations.TableMultiplyAddsExponents : Prop :=
  (∀ x y, encode (.gfmult x y) = packWord 0x14#8 .m0 .m0 .m0 0#8 x y) ∧
  ∀ (s : State) (x y : Nat), (∀ F, s.field = some F → F.w ≤ 8) →
    exec (.gfmult x y) s = .next
      (match s.field with
       | none => answerErr 0x09#8 s
       | some F =>
         if x < 2 ^ F.w ∧ y < 2 ^ F.w then
           if x = 0 ∨ y = 0 then answerOk 0 s
           else answerOk (F.powerAt (((F.logAt x).toNat + (F.logAt y).toNat) % (2 ^ F.w - 1))).toNat s
         else answerErr 0x0B#8 s)

/-- R50, R61: table division raises `DivideByZero` for a zero divisor, also for `0 / 0`, is 0 for a zero dividend, and
otherwise subtracts the exponents modulo `element_count - 1`: the representative in `0 .. element_count - 2` of
`LOG[x] - LOG[y]`, written here without a negative number. The premise is R10's bound on the order. -/
def Obligations.TableDivideSubtractsExponents : Prop :=
  (∀ x y, encode (.gfdivt x y) = packWord 0x15#8 .m0 .m0 .m0 0#8 x y) ∧
  ∀ (s : State) (x y : Nat), (∀ F, s.field = some F → F.w ≤ 8) →
    exec (.gfdivt x y) s = .next
      (match s.field with
       | none => answerErr 0x09#8 s
       | some F =>
         if x < 2 ^ F.w ∧ y < 2 ^ F.w then
           if y = 0 then answerErr 0x07#8 s
           else if x = 0 then answerOk 0 s
           else answerOk (F.powerAt (((F.logAt x).toNat +
             ((2 ^ F.w - 1) - (F.logAt y).toNat % (2 ^ F.w - 1))) % (2 ^ F.w - 1))).toNat s
         else answerErr 0x0B#8 s)

/-- R45, R62: `ISGEN` answers 1 exactly when `c^1 .. c^(n-1)` are nonzero, in-field and pairwise different. -/
def Obligations.IsgenTestsTheWholeCycle : Prop :=
  (∀ cand, encode (.isgen cand) = packWord 0x16#8 .m0 .m0 .m0 0#8 cand 0) ∧
  ∀ (s : State) (F : FieldCtx) (cand : Nat), s.field = some F → F.w ≤ 8 → cand < 2 ^ F.w →
    let power := fun k => (fun v => gfMulDirect F.w F.poly v (BitVec.ofNat 8 cand))^[k] (BitVec.ofNat 8 cand)
    ((∀ k < 2 ^ F.w - 1, power k ≠ 0#8 ∧ (power k).toNat < 2 ^ F.w ∧ ∀ j < k, power j ≠ power k) →
      exec (.isgen cand) s = .next (answerOk 1 s)) ∧
    (¬(∀ k < 2 ^ F.w - 1, power k ≠ 0#8 ∧ (power k).toNat < 2 ^ F.w ∧ ∀ j < k, power j ≠ power k) →
      exec (.isgen cand) s = .next (answerOk 0 s))

/-- R63: `MINGEN` answers the smallest candidate that qualifies, which for a field as the construction leaves it is
`POWER[1]`, so it raises no error there. -/
def Obligations.MingenAnswersSmallestGenerator : Prop :=
  encode .mingen = 0x1700000000000000#64 ∧
  (∀ (s : State) (F : FieldCtx) (g : Nat), s.field = some F → F.w ≤ 8 → 2 ≤ g → g < 2 ^ F.w →
    isGenerator F.w F.poly (BitVec.ofNat 8 g) = true →
    (∀ h, 2 ≤ h → h < g → isGenerator F.w F.poly (BitVec.ofNat 8 h) = false) →
    exec .mingen s = .next (answerOk g s)) ∧
  ∀ (s : State) (F : FieldCtx), s.field = some F → F.Inv → exec .mingen s = .next (answerOk (F.powerAt 1).toNat s)

/-- R64: `ALLGEN` raises `NoField` without a field; otherwise it puts into DOUT exactly the candidates that qualify, in
ascending order, and answers how many. For a field as the construction leaves it the first one is `MINGEN`'s answer. -/
def Obligations.AllgenListsGeneratorsAscending : Prop :=
  encode .allgen = 0x1800000000000000#64 ∧
  (∀ s : State, s.field = none → exec .allgen s = .next (answerErr 0x09#8 s)) ∧
  ∀ (s : State) (F : FieldCtx), s.field = some F → F.w ≤ 8 →
    ∃ l : List Byte, exec .allgen s = .next (answerOk l.length { s with dout := l }) ∧
      l.Pairwise (fun u v => u.toNat < v.toNat) ∧
      (∀ v : Byte, v ∈ l ↔ 2 ≤ v.toNat ∧ v.toNat ≤ 2 ^ F.w - 1 ∧ isGenerator F.w F.poly v = true) ∧
      (F.Inv → l.head? = some (F.powerAt 1))

/-- R65, R66: `RDPOW` and `RDLOG` read the cell of the table, and raise `IndexOutOfRange` for an index that does not
exist, 0 being none of `RDLOG`'s; in a field as the construction leaves it `RDPOW 0`, `RDPOW n-1` answer 1 and `RDLOG 1`
answers 0. -/
def Obligations.TableReads : Prop :=
  (∀ i, encode (.rdpow i) = packWord 0x19#8 .m0 .m0 .m0 0#8 i 0) ∧
  (∀ e, encode (.rdlog e) = packWord 0x1A#8 .m0 .m0 .m0 0#8 e 0) ∧
  (∀ (s : State) (i : Nat), exec (.rdpow i) s = .next
    (match s.field with
     | none => answerErr 0x09#8 s
     | some F => if i < 2 ^ F.w then answerOk (F.powerAt i).toNat s else answerErr 0x0E#8 s)) ∧
  (∀ (s : State) (e : Nat), exec (.rdlog e) s = .next
    (match s.field with
     | none => answerErr 0x09#8 s
     | some F => if e = 0 ∨ 2 ^ F.w ≤ e then answerErr 0x0E#8 s else answerOk (F.logAt e).toNat s)) ∧
  ∀ (s : State) (F : FieldCtx), s.field = some F → F.Inv →
    exec (.rdpow 0) s = .next (answerOk 1 s) ∧ exec (.rdpow (2 ^ F.w - 1)) s = .next (answerOk 1 s) ∧
    exec (.rdlog 1) s = .next (answerOk 0 s)

/-- R67: `RDFLD` answers 0 without a field, else bit 31, the order in bits 11:8 and the polynomial in bits 7:0; it
raises nothing. The premise is R10's bound on the order. -/
def Obligations.RdfldReadsTheDescriptor : Prop :=
  encode .rdfld = 0x1B00000000000000#64 ∧
  ∀ s : State, (∀ F, s.field = some F → F.w ≤ 8) →
    exec .rdfld s = .next
      (match s.field with
       | none => answerOk 0 s
       | some F => answerOk (2 ^ 31 + 2 ^ 8 * F.w + F.poly.toNat) s)

/-! ## The field as an algebraic object -/

/-- R12: every field the construction gives has the table invariants, and its generator is `POWER[1]`. -/
def Obligations.ConstructedTablesAreInverse : Prop :=
  ∀ (w : Nat) (P g : Byte) (F : FieldCtx), constructField w P = .ok (F, g) → F.Inv ∧ F.powerAt 1 = g

/-- R51: table multiplication equals direct multiplication in every field as the construction leaves it, so `GFMULT`
and `GFMULD` answer alike. -/
def Obligations.TableMultiplyEqualsDirect : Prop :=
  ∀ (s : State) (F : FieldCtx) (x y : Nat), s.field = some F → F.Inv → exec (.gfmult x y) s = exec (.gfmuld x y) s

/-- R52: the arithmetic laws in every field as the construction leaves it, for all elements. -/
def Obligations.FieldArithmeticLaws : Prop :=
  ∀ (F : FieldCtx) (x y z : Byte), F.Inv → x.toNat < 2 ^ F.w → y.toNat < 2 ^ F.w → z.toNat < 2 ^ F.w →
    gfAdd x x = 0#8 ∧ gfAdd x 0#8 = x ∧
    gfMulTable F x y = gfMulTable F y x ∧
    gfMulTable F (gfMulTable F x y) z = gfMulTable F x (gfMulTable F y z) ∧
    gfMulTable F x (gfAdd y z) = gfAdd (gfMulTable F x y) (gfMulTable F x z) ∧
    gfMulTable F x 1#8 = x ∧
    (x ≠ 0#8 → y ≠ 0#8 → gfMulTable F x y ≠ 0#8) ∧
    (x ≠ 0#8 → gfDivTable F x x = .ok 1#8) ∧
    (y ≠ 0#8 → ∃ q, gfDivTable F x y = .ok q ∧ gfMulTable F q y = x) ∧
    gfDivTable F x 1#8 = .ok x ∧ gfDivTable F x 0#8 = .error .divideByZero

/-- The constructible pairs of R53 with the generator the search returns: `(w, P, g)`. -/
def constructibleFields : List (Nat × Nat × Nat) :=
  [(2, 0x07, 2), (3, 0x0B, 2), (3, 0x0D, 2), (4, 0x13, 2), (4, 0x19, 2), (4, 0x1F, 3),
   (5, 0x25, 2), (5, 0x29, 2), (5, 0x2F, 2), (5, 0x37, 2), (5, 0x3B, 2), (5, 0x3D, 2)] ++
  [(6, 0x43, 2), (6, 0x49, 3), (6, 0x57, 3), (6, 0x5B, 2), (6, 0x61, 2), (6, 0x67, 2), (6, 0x6D, 2), (6, 0x73, 2),
   (6, 0x75, 3)] ++
  [(7, 0x83, 2), (7, 0x89, 2), (7, 0x8F, 2), (7, 0x91, 2), (7, 0x9D, 2), (7, 0xA7, 2), (7, 0xAB, 2), (7, 0xB9, 2),
   (7, 0xBF, 2), (7, 0xC1, 2), (7, 0xCB, 2), (7, 0xD3, 2), (7, 0xD5, 2), (7, 0xE5, 2), (7, 0xEF, 2), (7, 0xF1, 2),
   (7, 0xF7, 2), (7, 0xFD, 2)] ++
  [(8, 0x1B, 3), (8, 0x1D, 2), (8, 0x2B, 2), (8, 0x2D, 2), (8, 0x39, 3), (8, 0x3F, 3), (8, 0x4D, 2), (8, 0x5F, 2),
   (8, 0x63, 2), (8, 0x65, 2), (8, 0x69, 2), (8, 0x71, 2), (8, 0x77, 3), (8, 0x7B, 9), (8, 0x87, 2)] ++
  [(8, 0x8B, 6), (8, 0x8D, 2), (8, 0x9F, 3), (8, 0xA3, 3), (8, 0xA9, 2), (8, 0xB1, 6), (8, 0xBD, 7), (8, 0xC3, 2),
   (8, 0xCF, 2), (8, 0xD7, 7), (8, 0xDD, 6), (8, 0xE7, 2), (8, 0xF3, 6), (8, 0xF5, 2), (8, 0xF9, 3)]

/-- R53: exactly these 69 pairs construct a field, with these generators; every other pair of a legal order fails. -/
def Obligations.ConstructibleFieldsAreTheSixtyNine : Prop :=
  constructibleFields.length = 69 ∧
  ∀ (w : Nat) (P g : Byte), 1 ≤ w → w ≤ 8 →
    (findGenerator w P = .ok g ↔ (w, P.toNat, g.toNat) ∈ constructibleFields)

/-! ## Matrix commands -/

/-- R80 (b), R122: a command whose source matrix register (for `MWR`, whose destination) is invalid raises
`MatrixInvalid`, once the field it may need exists; a command that needs the encoder raises `NoCoder` without one. -/
def Obligations.MissingMatrixOrEncoderIsReported : Prop :=
  (∀ (i : Instr) (s : State) (r : MReg), r ∈ i.needsMats → s.mat r = none →
    (i.needsField = true → s.field ≠ none) → exec i s = .next (answerErr 0x0C#8 s)) ∧
  ∀ (i : Instr) (s : State), i.needsCoder = true → s.coder = none → exec i s = .next (answerErr 0x0A#8 s)

/-- R72, R74, R81, R83: `MNEW` fills a matrix of the given sizes, up to 256 each; `MCOLV` makes the input sequence a
column. -/
def Obligations.NewAndColumnMatrices : Prop :=
  (∀ md rows cols fill, encode (.mnew md rows cols fill) = packWord 0x20#8 md .m0 .m0 fill rows cols) ∧
  (∀ md, encode (.mcolv md) = packWord 0x22#8 md .m0 .m0 0#8 0 0) ∧
  (∀ (s : State) (md : MReg) (rows cols : Nat) (fill : Byte), exec (.mnew md rows cols fill) s = .next
    (if 256 < rows ∨ 256 < cols then answerErr 0x0D#8 s
     else answerOk 0 (s.putMat md { rows := rows, cols := cols, e := List.replicate (rows * cols) fill }))) ∧
  ∀ (s : State) (md : MReg), exec (.mcolv md) s = .next
    (answerOk 0 (s.putMat md { rows := s.din.length, cols := 1, e := s.din }))

/-- R73, R82: `MIDENT` raises `ZeroSizeMatrix` for 0 and `CapacityExceeded` above 256, and otherwise makes the matrix
with 1 on the diagonal and 0 elsewhere. -/
def Obligations.IdentityMatrix : Prop :=
  (∀ md n, encode (.mident md n) = packWord 0x21#8 md .m0 .m0 0#8 n 0) ∧
  ∀ (s : State) (md : MReg) (n : Nat),
    (n = 0 → exec (.mident md n) s = .next (answerErr 0x03#8 s)) ∧
    (256 < n → exec (.mident md n) s = .next (answerErr 0x0D#8 s)) ∧
    (1 ≤ n → n ≤ 256 → ∃ X : Mat, exec (.mident md n) s = .next (answerOk 0 (s.putMat md X)) ∧
      X.rows = n ∧ X.cols = n ∧ X.e.length = n * n ∧
      ∀ r c, r < n → c < n → X.at r c = if r = c then 1#8 else 0#8)

/-- R75, R84: `MCAUCHY` raises its errors in their order, and otherwise makes the matrix whose entry `(i, j)` is 1
divided by `(1 + i) xor (1 + rows + j)`; no division fails. The premise of the last clause is R10's bound on the order. -/
def Obligations.CauchyMatrixEntries : Prop :=
  (∀ md rows cols, encode (.mcauchy md rows cols) = packWord 0x23#8 md .m0 .m0 0#8 rows cols) ∧
  ∀ (s : State) (md : MReg) (rows cols : Nat),
    (s.field = none → exec (.mcauchy md rows cols) s = .next (answerErr 0x09#8 s)) ∧
    ∀ F, s.field = some F →
      (255 < rows ∨ 255 < cols → exec (.mcauchy md rows cols) s = .next (answerErr 0x04#8 s)) ∧
      (rows ≤ 255 → cols ≤ 255 → 2 ^ F.w < rows + cols →
        exec (.mcauchy md rows cols) s = .next (answerErr 0x05#8 s)) ∧
      (rows ≤ 255 → cols ≤ 255 → 1 ≤ rows → 1 ≤ cols → rows + cols = 2 ^ F.w →
        exec (.mcauchy md rows cols) s = .next (answerErr 0x0B#8 s)) ∧
      (rows ≤ 255 → cols ≤ 255 → rows + cols ≤ 2 ^ F.w → (rows = 0 ∨ cols = 0 ∨ rows + cols ≠ 2 ^ F.w) → F.w ≤ 8 →
        ∃ X : Mat, exec (.mcauchy md rows cols) s = .next (answerOk 0 (s.putMat md X)) ∧
          X.rows = rows ∧ X.cols = cols ∧ X.e.length = rows * cols ∧
          ∀ i j, i < rows → j < cols →
            gfDivTable F 1#8 (BitVec.ofNat 8 ((1 + i) ^^^ (1 + rows + j))) = .ok (X.at i j))

/-- R76: every square submatrix of a Cauchy matrix is invertible over the field it was built under: for different rows
`R` and as many different columns `K`, the only vector the submatrix sends to zero is zero. -/
def Obligations.CauchySubmatricesAreInvertible : Prop :=
  ∀ (F : FieldCtx) (rows cols : Nat) (X : Mat), F.Inv → matCauchy F rows cols = .ok X →
    ∀ (R K : List Nat) (z : List Byte), R.Nodup → K.Nodup → R.length = K.length → z.length = K.length →
      (∀ r ∈ R, r < rows) → (∀ c ∈ K, c < cols) → (∀ v ∈ z, v.toNat < 2 ^ F.w) →
      (∀ r ∈ R, (List.zipWith (fun c v => gfMulTable F (X.at r c) v) K z).foldl gfAdd 0#8 = 0#8) →
      ∀ v ∈ z, v = 0#8

/-- R77, R85: `MAPPEND` raises `MatrixInvalid` for a source that is not valid, then `ShapeMismatch` unless the column
counts agree, then `CapacityExceeded` above 256 rows, and otherwise puts the rows of the bottom under those of the top;
the sources are read first, so any registers may be equal (R80). -/
def Obligations.AppendStacksRows : Prop :=
  (∀ md ma mb, encode (.mappend md ma mb) = packWord 0x24#8 md ma mb 0#8 0 0) ∧
  (∀ (s : State) (md ma mb : MReg), s.mat ma = none ∨ s.mat mb = none →
    exec (.mappend md ma mb) s = .next (answerErr 0x0C#8 s)) ∧
  ∀ (s : State) (md ma mb : MReg) (T B : Mat), s.mat ma = some T → s.mat mb = some B →
    (T.cols ≠ B.cols → exec (.mappend md ma mb) s = .next (answerErr 0x08#8 s)) ∧
    (T.cols = B.cols → 256 < T.rows + B.rows → exec (.mappend md ma mb) s = .next (answerErr 0x0D#8 s)) ∧
    (T.cols = B.cols → T.rows + B.rows ≤ 256 → T.wf → B.wf →
      ∃ X : Mat, exec (.mappend md ma mb) s = .next (answerOk 0 (s.putMat md X)) ∧
        X.rows = T.rows + B.rows ∧ X.cols = T.cols ∧ X.e.length = X.rows * X.cols ∧
        (∀ r c, r < T.rows → c < T.cols → X.at r c = T.at r c) ∧
        ∀ r c, r < B.rows → c < B.cols → X.at (T.rows + r) c = B.at r c)

/-- R78, R86: `MMULF` raises `NoField`, then `MatrixInvalid`, then `ShapeMismatch` unless the column counts agree, then
`OperandOutOfField` for an entry that is no element, and otherwise makes the `A.rows × B.rows` matrix whose entry
`(m, n)` is the sum over the columns `p` of `A[m][p] · B[n][p]`. -/
def Obligations.MatrixProductContractsColumns : Prop :=
  (∀ md ma mb, encode (.mmulf md ma mb) = packWord 0x25#8 md ma mb 0#8 0 0) ∧
  (∀ (s : State) (md ma mb : MReg), s.field = none → exec (.mmulf md ma mb) s = .next (answerErr 0x09#8 s)) ∧
  (∀ (s : State) (md ma mb : MReg), s.field ≠ none → s.mat ma = none ∨ s.mat mb = none →
    exec (.mmulf md ma mb) s = .next (answerErr 0x0C#8 s)) ∧
  ∀ (s : State) (md ma mb : MReg) (F : FieldCtx) (A B : Mat),
    s.field = some F → s.mat ma = some A → s.mat mb = some B →
    (A.cols ≠ B.cols → exec (.mmulf md ma mb) s = .next (answerErr 0x08#8 s)) ∧
    (A.cols = B.cols → (∃ v ∈ A.e ++ B.e, 2 ^ F.w ≤ v.toNat) →
      exec (.mmulf md ma mb) s = .next (answerErr 0x0B#8 s)) ∧
    (A.cols = B.cols → (∀ v ∈ A.e ++ B.e, v.toNat < 2 ^ F.w) →
      ∃ X : Mat, exec (.mmulf md ma mb) s = .next (answerOk 0 (s.putMat md X)) ∧
        X.rows = A.rows ∧ X.cols = B.rows ∧ X.e.length = A.rows * B.rows ∧
        ∀ m n, m < A.rows → n < B.rows →
          X.at m n = ((List.range A.cols).map fun p => gfMulTable F (A.at m p) (B.at n p)).foldl gfAdd 0#8)

/-- R79, R87: `MTOVEC` puts the entries row by row into DOUT, entry `(r, c)` at position `r * cols + c`, and answers how
many. -/
def Obligations.FlattenIsRowMajor : Prop :=
  (∀ ma, encode (.mtovec ma) = packWord 0x26#8 .m0 ma .m0 0#8 0 0) ∧
  (∀ (s : State) (ma : MReg), exec (.mtovec ma) s = .next
    (match s.mat ma with
     | none => answerErr 0x0C#8 s
     | some A => answerOk (A.rows * A.cols) { s with dout := A.e })) ∧
  ∀ (A : Mat) (r c : Nat), A.wf → r < A.rows → c < A.cols → A.e[r * A.cols + c]? = some (A.at r c)

/-- R88, R90: `MRD` reads one entry or raises `IndexOutOfRange`; `MDIM` reads both sizes. The premise is R17's bound on
the sizes, which every step keeps. -/
def Obligations.MatrixReads : Prop :=
  (∀ ma r col, encode (.mrd ma r col) = packWord 0x27#8 .m0 ma .m0 0#8 r col) ∧
  (∀ ma, encode (.mdim ma) = packWord 0x29#8 .m0 ma .m0 0#8 0 0) ∧
  (∀ (s : State) (ma : MReg) (r col : Nat), exec (.mrd ma r col) s = .next
    (match s.mat ma with
     | none => answerErr 0x0C#8 s
     | some A => if A.rows ≤ r ∨ A.cols ≤ col then answerErr 0x0E#8 s else answerOk (A.at r col).toNat s)) ∧
  ∀ (s : State) (ma : MReg), (∀ A, s.mat ma = some A → A.rows ≤ 256 ∧ A.cols ≤ 256) → exec (.mdim ma) s = .next
    (match s.mat ma with
     | none => answerErr 0x0C#8 s
     | some A => answerOk (2 ^ 16 * A.rows + A.cols) s)

/-- R89: `MWR` writes the one entry it names and no other, and keeps the sizes; outside them it raises
`IndexOutOfRange`, and without a matrix `MatrixInvalid`. -/
def Obligations.MatrixWriteChangesOneEntry : Prop :=
  (∀ md r col value, encode (.mwr md r col value) = packWord 0x28#8 md .m0 .m0 value r col) ∧
  (∀ (s : State) (md : MReg) (r col : Nat) (value : Byte), s.mat md = none →
    exec (.mwr md r col value) s = .next (answerErr 0x0C#8 s)) ∧
  ∀ (s : State) (md : MReg) (r col : Nat) (value : Byte) (A : Mat), s.mat md = some A → A.wf →
    (A.rows ≤ r ∨ A.cols ≤ col → exec (.mwr md r col value) s = .next (answerErr 0x0E#8 s)) ∧
    (r < A.rows → col < A.cols → ∃ X : Mat, exec (.mwr md r col value) s = .next (answerOk 0 (s.putMat md X)) ∧
      X.rows = A.rows ∧ X.cols = A.cols ∧ X.e.length = A.e.length ∧ X.at r col = value ∧
      ∀ r' c', r' < A.rows → c' < A.cols → (r' ≠ r ∨ c' ≠ col) → X.at r' c' = A.at r' c')

/-- R17, R80: putting a matrix into a register makes it the register's value and leaves every other register, both
contexts and both buffers alone. -/
def Obligations.MatrixRegistersAreSeparate : Prop :=
  ∀ (s : State) (r : MReg) (X : Mat), (s.putMat r X).mat r = some X ∧ (∀ q, q ≠ r → (s.putMat r X).mat q = s.mat q) ∧
    (s.putMat r X).field = s.field ∧ (s.putMat r X).coder = s.coder ∧ (s.putMat r X).din = s.din ∧
    (s.putMat r X).dout = s.dout

/-! ## The Reed-Solomon encoder -/

/-- R97, R101: `RSNEW` raises its errors in their order, and otherwise builds the generator with the identity on top and
below it the inverses in GF(2^8, 0x1D) of `(1 + i) xor (1 + parityNum + j)`, and answers the codeword length. -/
def Obligations.EncoderGeneratorMatrix : Prop :=
  (∀ k m, encode (.rsnew k m) = packWord 0x40#8 .m0 .m0 .m0 0#8 k m) ∧
  ∀ (s : State) (k m : Nat),
    (k = 0 → exec (.rsnew k m) s = .next (answerErr 0x03#8 s)) ∧
    (1 ≤ k → 255 < m ∨ 255 < k → exec (.rsnew k m) s = .next (answerErr 0x04#8 s)) ∧
    (1 ≤ k → k ≤ 255 → m ≤ 255 → 256 < k + m → exec (.rsnew k m) s = .next (answerErr 0x05#8 s)) ∧
    (1 ≤ k → k ≤ 255 → 1 ≤ m → m ≤ 255 → k + m = 256 → exec (.rsnew k m) s = .next (answerErr 0x0B#8 s)) ∧
    (1 ≤ k → k + m ≤ 255 → ∃ C : Coder, exec (.rsnew k m) s = .next (answerOk (k + m) { s with coder := some C }) ∧
      C.dataNum = k ∧ C.parityNum = m ∧ C.g.length = (k + m) * k ∧
      (∀ r c, r < k → c < k → C.gMat.at r c = if r = c then 1#8 else 0#8) ∧
      ∀ i j, i < m → j < k →
        gfMulDirect 8 0x1D#8 (C.gMat.at (k + i) j) (BitVec.ofNat 8 ((1 + i) ^^^ (1 + m + j))) = 1#8)

/-- R98, R102, R129: `RSENC` raises `NoCoder` without an encoder and `SizeMismatch` unless DIN holds `dataNum` bytes, and
otherwise puts the codeword into DOUT, byte `r` being the sum over `p` of `G[r][p] · data[p]` in the encoder's field. -/
def Obligations.EncodeIsGeneratorTimesData : Prop :=
  encode .rsenc = 0x4100000000000000#64 ∧
  ∀ s : State,
    (s.coder = none → exec .rsenc s = .next (answerErr 0x0A#8 s)) ∧
    ∀ C, s.coder = some C →
      (s.din.length ≠ C.dataNum → exec .rsenc s = .next (answerErr 0x06#8 s)) ∧
      (s.din.length = C.dataNum → ∃ v : List Byte,
        exec .rsenc s = .next (answerOk (C.dataNum + C.parityNum) { s with dout := v }) ∧
        v.length = C.dataNum + C.parityNum ∧
        ∀ r < C.dataNum + C.parityNum, v[r]? =
          some (((List.range C.dataNum).map fun p =>
            gfMulTable coderField (C.gMat.at r p) (s.din.getD p 0#8)).foldl gfAdd 0#8))

/-- R99: the code is systematic: the codeword is the input followed by `parityNum` parity bytes. -/
def Obligations.CodewordStartsWithTheData : Prop :=
  ∀ (s : State) (C : Coder), s.coder = some C → C.Inv → s.din.length = C.dataNum →
    ∃ parity : List Byte, parity.length = C.parityNum ∧
      exec .rsenc s = .next (answerOk (C.dataNum + C.parityNum) { s with dout := s.din ++ parity })

/-- R99: encoding is linear: the codeword of the bytewise sum of two inputs is the bytewise sum of their codewords, and
zero data has the zero codeword. -/
def Obligations.EncodingIsLinear : Prop :=
  ∀ (C : Coder) (d d' v v' : List Byte), rsEncode C d = .ok v → rsEncode C d' = .ok v' →
    rsEncode C (List.zipWith gfAdd d d') = .ok (List.zipWith gfAdd v v') ∧
    rsEncode C (List.replicate C.dataNum 0#8) = .ok (List.replicate (C.dataNum + C.parityNum) 0#8)

/-- R103, R104: `RSRDG` reads one entry of the generator matrix or raises `IndexOutOfRange`; `RSDIM` reads both counts.
The premise is R14's bound on the counts, which every step keeps. -/
def Obligations.EncoderReads : Prop :=
  (∀ r col, encode (.rsrdg r col) = packWord 0x42#8 .m0 .m0 .m0 0#8 r col) ∧
  encode .rsdim = 0x4300000000000000#64 ∧
  (∀ (s : State) (r col : Nat), exec (.rsrdg r col) s = .next
    (match s.coder with
     | none => answerErr 0x0A#8 s
     | some C => if C.dataNum + C.parityNum ≤ r ∨ C.dataNum ≤ col then answerErr 0x0E#8 s
         else answerOk (C.gMat.at r col).toNat s)) ∧
  ∀ s : State, (∀ C, s.coder = some C → C.dataNum ≤ 255 ∧ C.parityNum ≤ 255) → exec .rsdim s = .next
    (match s.coder with
     | none => answerErr 0x0A#8 s
     | some C => answerOk (2 ^ 16 * C.dataNum + C.parityNum) s)

/-- R105: any `dataNum` of the `dataNum + parityNum` codeword bytes determine the data: two inputs whose codewords agree
at that many different positions are equal. -/
def Obligations.AnyDataNumFragmentsDetermineTheData : Prop :=
  ∀ (k m : Nat) (C : Coder) (d d' v v' : List Byte) (R : List Nat), rsNew k m = .ok C →
    rsEncode C d = .ok v → rsEncode C d' = .ok v' → R.Nodup → R.length = k → (∀ r ∈ R, r < k + m) →
    (∀ r ∈ R, v[r]? = v'[r]?) → d = d'

/-- R15: the field context never reaches the encoder: with any other field context each encoder command answers the same
and leaves the same state but for that field context, and `FIELD` leaves the encoder alone. -/
def Obligations.EncoderDoesNotReadTheField : Prop :=
  (∀ (i : Instr) (s t : State) (f : Option FieldCtx),
    ((∃ k m, i = .rsnew k m) ∨ i = .rsenc ∨ (∃ r c, i = .rsrdg r c) ∨ i = .rsdim) →
    exec i s = .next t → exec i { s with field := f } = .next { t with field := f }) ∧
  ∀ (w : Nat) (P : Byte) (s t : State), exec (.field w P) s = .next t → t.coder = s.coder

/-- R100: `RSENC` reads the encoder and DIN and changes neither, so a second one leaves the state of the first. -/
def Obligations.EncodingTwiceGivesTheSame : Prop :=
  ∀ s t : State, exec .rsenc s = .next t → t.coder = s.coder ∧ t.din = s.din ∧ exec .rsenc t = .next t

/-! ## The whole machine -/

/-- Every step keeps the invariant: the stores in their form (R11, R16, R17, R18), the table invariants of a valid field
(R12), a valid encoder as `rs_new` builds it (R16), a STATUS of R122, RESULT 0 on an error (R121). -/
def Obligations.StepKeepsTheInvariant : Prop :=
  ∀ s t : State, s.Inv → step s = .next t → t.Inv

/-- The state after reset meets the invariant. -/
def Obligations.ResetMeetsTheInvariant : Prop := State.reset.Inv

/-- R121: a command that ends with an error has written nothing but STATUS and RESULT, and RESULT is 0. -/
def Obligations.ErrorsWriteNothingElse : Prop :=
  ∀ (i : Instr) (s t : State), exec i s = .next t → t.status ≠ 0x00#8 → t = answerErr t.status s

/-- R13, R16: only `FIELD` and `RESET` change the field context, only `RSNEW` and `RESET` the encoder. -/
def Obligations.ContextsChangeOnlyByConstruction : Prop :=
  ∀ (i : Instr) (s t : State), exec i s = .next t → i ≠ .reset →
    ((∀ w P, i ≠ .field w P) → t.field = s.field) ∧ ((∀ k m, i ≠ .rsnew k m) → t.coder = s.coder)

/-- R22, R80: but for `RESET`, a command changes no matrix register except the one it writes. -/
def Obligations.OnlyTheDestinationRegisterChanges : Prop :=
  ∀ (i : Instr) (s t : State) (r : MReg), exec i s = .next t → i ≠ .reset → i.matWritten ≠ some r → t.mat r = s.mat r

/-- R18: but for `RESET`, DIN is written only by `DPUSH` and `DCLR`, and DOUT only by `ALLGEN`, `MTOVEC` and `RSENC`. -/
def Obligations.BuffersChangeOnlyByTheirCommands : Prop :=
  ∀ (i : Instr) (s t : State), exec i s = .next t → i ≠ .reset →
    (i ≠ .dclr → (∀ b, i ≠ .dpush b) → t.din = s.din) ∧
    (i ≠ .allgen → (∀ ma, i ≠ .mtovec ma) → i ≠ .rsenc → t.dout = s.dout)

/-- R122: in every state that meets the invariant, a legal command answers only `OK` and the codes the table lists it
under; in particular never `0x10` or above. The premise is used by `MINGEN` alone, whose search succeeds because the
field was constructed (R63). -/
def Obligations.CommandsRaiseOnlyTheirCodes : Prop :=
  ∀ (i : Instr) (s t : State), s.Inv → exec i s = .next t → t.status ∈ i.codes ∧ t.status.toNat < 0x10

/-- R21: no command reads STATUS or RESULT: whatever the last response was, a command does the same. -/
def Obligations.NoCommandReadsTheLastResponse : Prop :=
  ∀ (i : Instr) (s : State) (c : Byte) (v : Result) (b : Bool),
    exec i { s with status := c, result := v, rspValid := b } = exec i s
end

