-- ==== Sys2Proof/Laws/Decode.lean ====
section
/-!
SUPPORT. The fields of a packed command word (R35), the opcode table (R37), and the register numbers (R36).
-/

namespace Sys2Proof

/-! ## A packed word, field by field -/

/-- A field above the low part is a field of the high part. -/
theorem extract_hi {v w start len : Nat} (x : BitVec v) (y : BitVec w) (h : w ≤ start) :
    BitVec.extractLsb' start len (x ++ y) = BitVec.extractLsb' (start - w) len x :=
  BitVec.extractLsb'_append_eq_of_le h

/-- The low part is the low field. -/
theorem extract_lo {v w : Nat} (x : BitVec v) (y : BitVec w) : BitVec.extractLsb' 0 w (x ++ y) = y :=
  (BitVec.extractLsb'_append_eq_of_add_le (by omega)).trans BitVec.extractLsb'_eq_self

section
variable (op : Byte) (md ma mb : MReg) (c : Byte) (a b : Nat)

@[simp] theorem bField_pack : bField (packWord op md ma mb c a b) = BitVec.ofNat 16 b :=
  extract_lo (v := 48) (w := 16) _ _

@[simp] theorem aField_pack : aField (packWord op md ma mb c a b) = BitVec.ofNat 16 a :=
  (extract_hi (v := 48) (w := 16) _ _ (by decide)).trans <|
  extract_lo (v := 32) (w := 16) _ _

@[simp] theorem cField_pack : cField (packWord op md ma mb c a b) = c :=
  (extract_hi (v := 48) (w := 16) _ _ (by decide)).trans <|
  (extract_hi (v := 32) (w := 16) _ _ (by decide)).trans <|
  extract_lo (v := 24) (w := 8) _ _

@[simp] theorem zeroField_pack : zeroField (packWord op md ma mb c a b) = 0#10 :=
  (extract_hi (v := 48) (w := 16) _ _ (by decide)).trans <|
  (extract_hi (v := 32) (w := 16) _ _ (by decide)).trans <|
  (extract_hi (v := 24) (w := 8) _ _ (by decide)).trans <|
  extract_lo (v := 14) (w := 10) _ _

@[simp] theorem mbField_pack : mbField (packWord op md ma mb c a b) = mb.toBits :=
  (extract_hi (v := 48) (w := 16) _ _ (by decide)).trans <|
  (extract_hi (v := 32) (w := 16) _ _ (by decide)).trans <|
  (extract_hi (v := 24) (w := 8) _ _ (by decide)).trans <|
  (extract_hi (v := 14) (w := 10) _ _ (by decide)).trans <|
  extract_lo (v := 12) (w := 2) _ _

@[simp] theorem maField_pack : maField (packWord op md ma mb c a b) = ma.toBits :=
  (extract_hi (v := 48) (w := 16) _ _ (by decide)).trans <|
  (extract_hi (v := 32) (w := 16) _ _ (by decide)).trans <|
  (extract_hi (v := 24) (w := 8) _ _ (by decide)).trans <|
  (extract_hi (v := 14) (w := 10) _ _ (by decide)).trans <|
  (extract_hi (v := 12) (w := 2) _ _ (by decide)).trans <|
  extract_lo (v := 10) (w := 2) _ _

@[simp] theorem mdField_pack : mdField (packWord op md ma mb c a b) = md.toBits :=
  (extract_hi (v := 48) (w := 16) _ _ (by decide)).trans <|
  (extract_hi (v := 32) (w := 16) _ _ (by decide)).trans <|
  (extract_hi (v := 24) (w := 8) _ _ (by decide)).trans <|
  (extract_hi (v := 14) (w := 10) _ _ (by decide)).trans <|
  (extract_hi (v := 12) (w := 2) _ _ (by decide)).trans <|
  (extract_hi (v := 10) (w := 2) _ _ (by decide)).trans <|
  extract_lo (v := 8) (w := 2) _ _

@[simp] theorem opField_pack : opField (packWord op md ma mb c a b) = op :=
  (extract_hi (v := 48) (w := 16) _ _ (by decide)).trans <|
  (extract_hi (v := 32) (w := 16) _ _ (by decide)).trans <|
  (extract_hi (v := 24) (w := 8) _ _ (by decide)).trans <|
  (extract_hi (v := 14) (w := 10) _ _ (by decide)).trans <|
  (extract_hi (v := 12) (w := 2) _ _ (by decide)).trans <|
  (extract_hi (v := 10) (w := 2) _ _ (by decide)).trans <|
  (extract_hi (v := 8) (w := 2) _ _ (by decide)).trans <|
  BitVec.extractLsb'_eq_self

end

/-- Register numbers and names correspond (R36). -/
@[simp] theorem ofBits_toBits (r : MReg) : MReg.ofBits r.toBits = r := by cases r <;> decide

@[simp] theorem toBits_ofBits (n : BitVec 2) : (MReg.ofBits n).toBits = n := by
  revert n; decide

@[simp] theorem toBits_m0 : MReg.m0.toBits = 0#2 := rfl

/-- A 16-bit operand is carried exactly (R36). -/
theorem toNat_of_fits16 {n : Nat} (h : fits16 n = true) : (BitVec.ofNat 16 n).toNat = n := by
  have : n < 65536 := by simpa [fits16] using h
  rw [BitVec.toNat_ofNat, Nat.mod_eq_of_lt (by simpa using this)]

/-- A field value is a 16-bit operand. -/
theorem fits16_toNat (v : BitVec 16) : fits16 v.toNat = true := by
  have := v.isLt
  simp [fits16]; omega

/-! ## The opcode table -/

/-- Every mnemonic is selected by its own opcode (R37). -/
@[simp] theorem ofOp_op (m : Mnemonic) : Mnemonic.ofOp m.op = some m := by cases m <;> decide

/-- An opcode selects only the mnemonic it belongs to (R37): no two rows share one. -/
theorem op_of_ofOp {op : Byte} {m : Mnemonic} (h : Mnemonic.ofOp op = some m) : m.op = op := by
  have := List.find?_some h
  simpa using this

/-- The mnemonic of a built command is the one it was built by. -/
@[simp] theorem mnemonic_build (m : Mnemonic) (md ma mb : MReg) (c : Byte) (a b : Nat) :
    (m.build md ma mb c a b).mnemonic = m := by cases m <;> rfl

/-- What a successful decoding read (R41). -/
theorem decode_some {wd : Word} {i : Instr} (h : decode wd = some i) :
    ∃ m, Mnemonic.ofOp (opField wd) = some m ∧ m.uses.legal wd = true ∧
      i = m.build (MReg.ofBits (mdField wd)) (MReg.ofBits (maField wd)) (MReg.ofBits (mbField wd)) (cField wd)
        (aField wd).toNat (bField wd).toNat := by
  unfold decode at h
  split at h
  · cases h
  · rename_i m hm
    split at h
    · rename_i hl
      exact ⟨m, hm, hl, (Option.some.inj h).symm⟩
    · cases h

/-- A word decodes to nothing exactly when it is illegal (R38): its opcode is unassigned, or a reserved or unused field
of its command is not zero. -/
theorem decode_none {wd : Word} :
    decode wd = none ↔
      Mnemonic.ofOp (opField wd) = none ∨ ∃ m, Mnemonic.ofOp (opField wd) = some m ∧ m.uses.legal wd = false := by
  unfold decode
  cases h : Mnemonic.ofOp (opField wd) with
  | none => simp
  | some m => cases hl : m.uses.legal wd <;> simp [hl]

end Sys2Proof
end

