-- ==== Sys2Proof/Laws/State.lean ====
section
/-!
SUPPORT. The fields of the state after each named update, one lemma per field and update, so that no proof unfolds a
record update; and the laws of the matrix register file (R17, R80).
-/

namespace Sys2Proof.Machine

/-! ### `respond` -/

@[simp] theorem respond_field (c : Byte) (v : Result) (s : State) : (respond c v s).field = s.field := rfl
@[simp] theorem respond_coder (c : Byte) (v : Result) (s : State) : (respond c v s).coder = s.coder := rfl
@[simp] theorem respond_m0 (c : Byte) (v : Result) (s : State) : (respond c v s).m0 = s.m0 := rfl
@[simp] theorem respond_m1 (c : Byte) (v : Result) (s : State) : (respond c v s).m1 = s.m1 := rfl
@[simp] theorem respond_m2 (c : Byte) (v : Result) (s : State) : (respond c v s).m2 = s.m2 := rfl
@[simp] theorem respond_m3 (c : Byte) (v : Result) (s : State) : (respond c v s).m3 = s.m3 := rfl
@[simp] theorem respond_din (c : Byte) (v : Result) (s : State) : (respond c v s).din = s.din := rfl
@[simp] theorem respond_dout (c : Byte) (v : Result) (s : State) : (respond c v s).dout = s.dout := rfl
@[simp] theorem respond_status (c : Byte) (v : Result) (s : State) : (respond c v s).status = c := rfl
@[simp] theorem respond_result (c : Byte) (v : Result) (s : State) : (respond c v s).result = v := rfl
@[simp] theorem respond_rspValid (c : Byte) (v : Result) (s : State) : (respond c v s).rspValid = true := rfl
@[simp] theorem respond_host (c : Byte) (v : Result) (s : State) : (respond c v s).host = s.host := rfl
@[simp] theorem respond_mat (c : Byte) (v : Result) (s : State) (r : MReg) : (respond c v s).mat r = s.mat r := by cases r <;> rfl

/-! ### `raise` -/

@[simp] theorem raise_field (e : Err) (s : State) : (raise e s).field = s.field := rfl
@[simp] theorem raise_coder (e : Err) (s : State) : (raise e s).coder = s.coder := rfl
@[simp] theorem raise_m0 (e : Err) (s : State) : (raise e s).m0 = s.m0 := rfl
@[simp] theorem raise_m1 (e : Err) (s : State) : (raise e s).m1 = s.m1 := rfl
@[simp] theorem raise_m2 (e : Err) (s : State) : (raise e s).m2 = s.m2 := rfl
@[simp] theorem raise_m3 (e : Err) (s : State) : (raise e s).m3 = s.m3 := rfl
@[simp] theorem raise_din (e : Err) (s : State) : (raise e s).din = s.din := rfl
@[simp] theorem raise_dout (e : Err) (s : State) : (raise e s).dout = s.dout := rfl
@[simp] theorem raise_status (e : Err) (s : State) : (raise e s).status = e.code := rfl
@[simp] theorem raise_result (e : Err) (s : State) : (raise e s).result = 0#32 := rfl
@[simp] theorem raise_rspValid (e : Err) (s : State) : (raise e s).rspValid = true := rfl
@[simp] theorem raise_host (e : Err) (s : State) : (raise e s).host = s.host := rfl
@[simp] theorem raise_mat (e : Err) (s : State) (r : MReg) : (raise e s).mat r = s.mat r := by cases r <;> rfl

/-! ### `answerOk` -/

@[simp] theorem answerOk_field (v : Nat) (s : State) : (answerOk v s).field = s.field := rfl
@[simp] theorem answerOk_coder (v : Nat) (s : State) : (answerOk v s).coder = s.coder := rfl
@[simp] theorem answerOk_m0 (v : Nat) (s : State) : (answerOk v s).m0 = s.m0 := rfl
@[simp] theorem answerOk_m1 (v : Nat) (s : State) : (answerOk v s).m1 = s.m1 := rfl
@[simp] theorem answerOk_m2 (v : Nat) (s : State) : (answerOk v s).m2 = s.m2 := rfl
@[simp] theorem answerOk_m3 (v : Nat) (s : State) : (answerOk v s).m3 = s.m3 := rfl
@[simp] theorem answerOk_din (v : Nat) (s : State) : (answerOk v s).din = s.din := rfl
@[simp] theorem answerOk_dout (v : Nat) (s : State) : (answerOk v s).dout = s.dout := rfl
@[simp] theorem answerOk_status (v : Nat) (s : State) : (answerOk v s).status = 0x00#8 := rfl
@[simp] theorem answerOk_result (v : Nat) (s : State) : (answerOk v s).result = BitVec.ofNat 32 v := rfl
@[simp] theorem answerOk_rspValid (v : Nat) (s : State) : (answerOk v s).rspValid = true := rfl
@[simp] theorem answerOk_host (v : Nat) (s : State) : (answerOk v s).host = s.host := rfl
@[simp] theorem answerOk_mat (v : Nat) (s : State) (r : MReg) : (answerOk v s).mat r = s.mat r := by cases r <;> rfl

/-! ### `answerErr` -/

@[simp] theorem answerErr_field (c : Byte) (s : State) : (answerErr c s).field = s.field := rfl
@[simp] theorem answerErr_coder (c : Byte) (s : State) : (answerErr c s).coder = s.coder := rfl
@[simp] theorem answerErr_m0 (c : Byte) (s : State) : (answerErr c s).m0 = s.m0 := rfl
@[simp] theorem answerErr_m1 (c : Byte) (s : State) : (answerErr c s).m1 = s.m1 := rfl
@[simp] theorem answerErr_m2 (c : Byte) (s : State) : (answerErr c s).m2 = s.m2 := rfl
@[simp] theorem answerErr_m3 (c : Byte) (s : State) : (answerErr c s).m3 = s.m3 := rfl
@[simp] theorem answerErr_din (c : Byte) (s : State) : (answerErr c s).din = s.din := rfl
@[simp] theorem answerErr_dout (c : Byte) (s : State) : (answerErr c s).dout = s.dout := rfl
@[simp] theorem answerErr_status (c : Byte) (s : State) : (answerErr c s).status = c := rfl
@[simp] theorem answerErr_result (c : Byte) (s : State) : (answerErr c s).result = 0x00000000#32 := rfl
@[simp] theorem answerErr_rspValid (c : Byte) (s : State) : (answerErr c s).rspValid = true := rfl
@[simp] theorem answerErr_host (c : Byte) (s : State) : (answerErr c s).host = s.host := rfl
@[simp] theorem answerErr_mat (c : Byte) (s : State) (r : MReg) : (answerErr c s).mat r = s.mat r := by cases r <;> rfl

/-! ### `putDout` -/

@[simp] theorem putDout_field (v : List Byte) (s : State) : (s.putDout v).field = s.field := rfl
@[simp] theorem putDout_coder (v : List Byte) (s : State) : (s.putDout v).coder = s.coder := rfl
@[simp] theorem putDout_m0 (v : List Byte) (s : State) : (s.putDout v).m0 = s.m0 := rfl
@[simp] theorem putDout_m1 (v : List Byte) (s : State) : (s.putDout v).m1 = s.m1 := rfl
@[simp] theorem putDout_m2 (v : List Byte) (s : State) : (s.putDout v).m2 = s.m2 := rfl
@[simp] theorem putDout_m3 (v : List Byte) (s : State) : (s.putDout v).m3 = s.m3 := rfl
@[simp] theorem putDout_din (v : List Byte) (s : State) : (s.putDout v).din = s.din := rfl
@[simp] theorem putDout_dout (v : List Byte) (s : State) : (s.putDout v).dout = v := rfl
@[simp] theorem putDout_status (v : List Byte) (s : State) : (s.putDout v).status = s.status := rfl
@[simp] theorem putDout_result (v : List Byte) (s : State) : (s.putDout v).result = s.result := rfl
@[simp] theorem putDout_rspValid (v : List Byte) (s : State) : (s.putDout v).rspValid = s.rspValid := rfl
@[simp] theorem putDout_host (v : List Byte) (s : State) : (s.putDout v).host = s.host := rfl
@[simp] theorem putDout_mat (v : List Byte) (s : State) (r : MReg) : (s.putDout v).mat r = s.mat r := by cases r <;> rfl

/-! ### `pushDin` -/

@[simp] theorem pushDin_field (v : Byte) (s : State) : (s.pushDin v).field = s.field := rfl
@[simp] theorem pushDin_coder (v : Byte) (s : State) : (s.pushDin v).coder = s.coder := rfl
@[simp] theorem pushDin_m0 (v : Byte) (s : State) : (s.pushDin v).m0 = s.m0 := rfl
@[simp] theorem pushDin_m1 (v : Byte) (s : State) : (s.pushDin v).m1 = s.m1 := rfl
@[simp] theorem pushDin_m2 (v : Byte) (s : State) : (s.pushDin v).m2 = s.m2 := rfl
@[simp] theorem pushDin_m3 (v : Byte) (s : State) : (s.pushDin v).m3 = s.m3 := rfl
@[simp] theorem pushDin_din (v : Byte) (s : State) : (s.pushDin v).din = s.din ++ [v] := rfl
@[simp] theorem pushDin_dout (v : Byte) (s : State) : (s.pushDin v).dout = s.dout := rfl
@[simp] theorem pushDin_status (v : Byte) (s : State) : (s.pushDin v).status = s.status := rfl
@[simp] theorem pushDin_result (v : Byte) (s : State) : (s.pushDin v).result = s.result := rfl
@[simp] theorem pushDin_rspValid (v : Byte) (s : State) : (s.pushDin v).rspValid = s.rspValid := rfl
@[simp] theorem pushDin_host (v : Byte) (s : State) : (s.pushDin v).host = s.host := rfl
@[simp] theorem pushDin_mat (v : Byte) (s : State) (r : MReg) : (s.pushDin v).mat r = s.mat r := by cases r <;> rfl

/-! ### `clearDin` -/

@[simp] theorem clearDin_field (s : State) : (s.clearDin).field = s.field := rfl
@[simp] theorem clearDin_coder (s : State) : (s.clearDin).coder = s.coder := rfl
@[simp] theorem clearDin_m0 (s : State) : (s.clearDin).m0 = s.m0 := rfl
@[simp] theorem clearDin_m1 (s : State) : (s.clearDin).m1 = s.m1 := rfl
@[simp] theorem clearDin_m2 (s : State) : (s.clearDin).m2 = s.m2 := rfl
@[simp] theorem clearDin_m3 (s : State) : (s.clearDin).m3 = s.m3 := rfl
@[simp] theorem clearDin_din (s : State) : (s.clearDin).din = [] := rfl
@[simp] theorem clearDin_dout (s : State) : (s.clearDin).dout = s.dout := rfl
@[simp] theorem clearDin_status (s : State) : (s.clearDin).status = s.status := rfl
@[simp] theorem clearDin_result (s : State) : (s.clearDin).result = s.result := rfl
@[simp] theorem clearDin_rspValid (s : State) : (s.clearDin).rspValid = s.rspValid := rfl
@[simp] theorem clearDin_host (s : State) : (s.clearDin).host = s.host := rfl
@[simp] theorem clearDin_mat (s : State) (r : MReg) : (s.clearDin).mat r = s.mat r := by cases r <;> rfl

/-! ### `putField` -/

@[simp] theorem putField_field (F : FieldCtx) (s : State) : (s.putField F).field = some F := rfl
@[simp] theorem putField_coder (F : FieldCtx) (s : State) : (s.putField F).coder = s.coder := rfl
@[simp] theorem putField_m0 (F : FieldCtx) (s : State) : (s.putField F).m0 = s.m0 := rfl
@[simp] theorem putField_m1 (F : FieldCtx) (s : State) : (s.putField F).m1 = s.m1 := rfl
@[simp] theorem putField_m2 (F : FieldCtx) (s : State) : (s.putField F).m2 = s.m2 := rfl
@[simp] theorem putField_m3 (F : FieldCtx) (s : State) : (s.putField F).m3 = s.m3 := rfl
@[simp] theorem putField_din (F : FieldCtx) (s : State) : (s.putField F).din = s.din := rfl
@[simp] theorem putField_dout (F : FieldCtx) (s : State) : (s.putField F).dout = s.dout := rfl
@[simp] theorem putField_status (F : FieldCtx) (s : State) : (s.putField F).status = s.status := rfl
@[simp] theorem putField_result (F : FieldCtx) (s : State) : (s.putField F).result = s.result := rfl
@[simp] theorem putField_rspValid (F : FieldCtx) (s : State) : (s.putField F).rspValid = s.rspValid := rfl
@[simp] theorem putField_host (F : FieldCtx) (s : State) : (s.putField F).host = s.host := rfl
@[simp] theorem putField_mat (F : FieldCtx) (s : State) (r : MReg) : (s.putField F).mat r = s.mat r := by cases r <;> rfl

/-! ### `putCoder` -/

@[simp] theorem putCoder_field (C : Coder) (s : State) : (s.putCoder C).field = s.field := rfl
@[simp] theorem putCoder_coder (C : Coder) (s : State) : (s.putCoder C).coder = some C := rfl
@[simp] theorem putCoder_m0 (C : Coder) (s : State) : (s.putCoder C).m0 = s.m0 := rfl
@[simp] theorem putCoder_m1 (C : Coder) (s : State) : (s.putCoder C).m1 = s.m1 := rfl
@[simp] theorem putCoder_m2 (C : Coder) (s : State) : (s.putCoder C).m2 = s.m2 := rfl
@[simp] theorem putCoder_m3 (C : Coder) (s : State) : (s.putCoder C).m3 = s.m3 := rfl
@[simp] theorem putCoder_din (C : Coder) (s : State) : (s.putCoder C).din = s.din := rfl
@[simp] theorem putCoder_dout (C : Coder) (s : State) : (s.putCoder C).dout = s.dout := rfl
@[simp] theorem putCoder_status (C : Coder) (s : State) : (s.putCoder C).status = s.status := rfl
@[simp] theorem putCoder_result (C : Coder) (s : State) : (s.putCoder C).result = s.result := rfl
@[simp] theorem putCoder_rspValid (C : Coder) (s : State) : (s.putCoder C).rspValid = s.rspValid := rfl
@[simp] theorem putCoder_host (C : Coder) (s : State) : (s.putCoder C).host = s.host := rfl
@[simp] theorem putCoder_mat (C : Coder) (s : State) (r : MReg) : (s.putCoder C).mat r = s.mat r := by cases r <;> rfl

/-! ### `clearAll` -/

@[simp] theorem clearAll_field (s : State) : (s.clearAll).field = none := rfl
@[simp] theorem clearAll_coder (s : State) : (s.clearAll).coder = none := rfl
@[simp] theorem clearAll_m0 (s : State) : (s.clearAll).m0 = none := rfl
@[simp] theorem clearAll_m1 (s : State) : (s.clearAll).m1 = none := rfl
@[simp] theorem clearAll_m2 (s : State) : (s.clearAll).m2 = none := rfl
@[simp] theorem clearAll_m3 (s : State) : (s.clearAll).m3 = none := rfl
@[simp] theorem clearAll_din (s : State) : (s.clearAll).din = [] := rfl
@[simp] theorem clearAll_dout (s : State) : (s.clearAll).dout = [] := rfl
@[simp] theorem clearAll_status (s : State) : (s.clearAll).status = s.status := rfl
@[simp] theorem clearAll_result (s : State) : (s.clearAll).result = s.result := rfl
@[simp] theorem clearAll_rspValid (s : State) : (s.clearAll).rspValid = s.rspValid := rfl
@[simp] theorem clearAll_host (s : State) : (s.clearAll).host = s.host := rfl
@[simp] theorem clearAll_mat (s : State) (r : MReg) : (s.clearAll).mat r = none := by cases r <;> rfl

/-! ### `hardReset` -/

@[simp] theorem hardReset_field (s : State) : (hardReset s).field = none := rfl
@[simp] theorem hardReset_coder (s : State) : (hardReset s).coder = none := rfl
@[simp] theorem hardReset_m0 (s : State) : (hardReset s).m0 = none := rfl
@[simp] theorem hardReset_m1 (s : State) : (hardReset s).m1 = none := rfl
@[simp] theorem hardReset_m2 (s : State) : (hardReset s).m2 = none := rfl
@[simp] theorem hardReset_m3 (s : State) : (hardReset s).m3 = none := rfl
@[simp] theorem hardReset_din (s : State) : (hardReset s).din = [] := rfl
@[simp] theorem hardReset_dout (s : State) : (hardReset s).dout = [] := rfl
@[simp] theorem hardReset_status (s : State) : (hardReset s).status = 0x00#8 := rfl
@[simp] theorem hardReset_result (s : State) : (hardReset s).result = 0x00000000#32 := rfl
@[simp] theorem hardReset_rspValid (s : State) : (hardReset s).rspValid = false := rfl
@[simp] theorem hardReset_host (s : State) : (hardReset s).host = s.host := rfl
@[simp] theorem hardReset_mat (s : State) (r : MReg) : (hardReset s).mat r = none := by cases r <;> rfl

/-! ### `idle` -/

@[simp] theorem idle_field (s : State) : (idle s).field = s.field := rfl
@[simp] theorem idle_coder (s : State) : (idle s).coder = s.coder := rfl
@[simp] theorem idle_m0 (s : State) : (idle s).m0 = s.m0 := rfl
@[simp] theorem idle_m1 (s : State) : (idle s).m1 = s.m1 := rfl
@[simp] theorem idle_m2 (s : State) : (idle s).m2 = s.m2 := rfl
@[simp] theorem idle_m3 (s : State) : (idle s).m3 = s.m3 := rfl
@[simp] theorem idle_din (s : State) : (idle s).din = s.din := rfl
@[simp] theorem idle_dout (s : State) : (idle s).dout = s.dout := rfl
@[simp] theorem idle_status (s : State) : (idle s).status = s.status := rfl
@[simp] theorem idle_result (s : State) : (idle s).result = s.result := rfl
@[simp] theorem idle_rspValid (s : State) : (idle s).rspValid = false := rfl
@[simp] theorem idle_host (s : State) : (idle s).host = s.host := rfl
@[simp] theorem idle_mat (s : State) (r : MReg) : (idle s).mat r = s.mat r := by cases r <;> rfl

/-! ### `illegalCommand` -/

@[simp] theorem illegalCommand_field (s : State) : (illegalCommand s).field = s.field := rfl
@[simp] theorem illegalCommand_coder (s : State) : (illegalCommand s).coder = s.coder := rfl
@[simp] theorem illegalCommand_m0 (s : State) : (illegalCommand s).m0 = s.m0 := rfl
@[simp] theorem illegalCommand_m1 (s : State) : (illegalCommand s).m1 = s.m1 := rfl
@[simp] theorem illegalCommand_m2 (s : State) : (illegalCommand s).m2 = s.m2 := rfl
@[simp] theorem illegalCommand_m3 (s : State) : (illegalCommand s).m3 = s.m3 := rfl
@[simp] theorem illegalCommand_din (s : State) : (illegalCommand s).din = s.din := rfl
@[simp] theorem illegalCommand_dout (s : State) : (illegalCommand s).dout = s.dout := rfl
@[simp] theorem illegalCommand_status (s : State) : (illegalCommand s).status = 0x0F#8 := rfl
@[simp] theorem illegalCommand_result (s : State) : (illegalCommand s).result = 0#32 := rfl
@[simp] theorem illegalCommand_rspValid (s : State) : (illegalCommand s).rspValid = true := rfl
@[simp] theorem illegalCommand_host (s : State) : (illegalCommand s).host = s.host := rfl
@[simp] theorem illegalCommand_mat (s : State) (r : MReg) : (illegalCommand s).mat r = s.mat r := by cases r <;> rfl

/-! ### `offer` -/

@[simp] theorem offer_field (wd : Word) (s : State) : (s.offer wd).field = s.field := rfl
@[simp] theorem offer_coder (wd : Word) (s : State) : (s.offer wd).coder = s.coder := rfl
@[simp] theorem offer_m0 (wd : Word) (s : State) : (s.offer wd).m0 = s.m0 := rfl
@[simp] theorem offer_m1 (wd : Word) (s : State) : (s.offer wd).m1 = s.m1 := rfl
@[simp] theorem offer_m2 (wd : Word) (s : State) : (s.offer wd).m2 = s.m2 := rfl
@[simp] theorem offer_m3 (wd : Word) (s : State) : (s.offer wd).m3 = s.m3 := rfl
@[simp] theorem offer_din (wd : Word) (s : State) : (s.offer wd).din = s.din := rfl
@[simp] theorem offer_dout (wd : Word) (s : State) : (s.offer wd).dout = s.dout := rfl
@[simp] theorem offer_status (wd : Word) (s : State) : (s.offer wd).status = s.status := rfl
@[simp] theorem offer_result (wd : Word) (s : State) : (s.offer wd).result = s.result := rfl
@[simp] theorem offer_rspValid (wd : Word) (s : State) : (s.offer wd).rspValid = s.rspValid := rfl
@[simp] theorem offer_host (wd : Word) (s : State) : (s.offer wd).host = .command wd :: s.host := rfl
@[simp] theorem offer_mat (wd : Word) (s : State) (r : MReg) : (s.offer wd).mat r = s.mat r := by cases r <;> rfl

/-! ### The matrix registers -/

@[simp] theorem putMat_field (s : State) (r : MReg) (X : Mat) : (s.putMat r X).field = s.field := by cases r <;> rfl
@[simp] theorem putMat_coder (s : State) (r : MReg) (X : Mat) : (s.putMat r X).coder = s.coder := by cases r <;> rfl
@[simp] theorem putMat_din (s : State) (r : MReg) (X : Mat) : (s.putMat r X).din = s.din := by cases r <;> rfl
@[simp] theorem putMat_dout (s : State) (r : MReg) (X : Mat) : (s.putMat r X).dout = s.dout := by cases r <;> rfl
@[simp] theorem putMat_status (s : State) (r : MReg) (X : Mat) : (s.putMat r X).status = s.status := by cases r <;> rfl
@[simp] theorem putMat_result (s : State) (r : MReg) (X : Mat) : (s.putMat r X).result = s.result := by cases r <;> rfl
@[simp] theorem putMat_rspValid (s : State) (r : MReg) (X : Mat) : (s.putMat r X).rspValid = s.rspValid := by cases r <;> rfl
@[simp] theorem putMat_host (s : State) (r : MReg) (X : Mat) : (s.putMat r X).host = s.host := by cases r <;> rfl

/-- A register reads as what was put into it. -/
@[simp] theorem putMat_mat_self (s : State) (r : MReg) (X : Mat) : (s.putMat r X).mat r = some X := by cases r <;> rfl

/-- Putting a matrix leaves every other register alone (R80). -/
theorem putMat_mat_ne (s : State) {r q : MReg} (X : Mat) (h : q ≠ r) : (s.putMat r X).mat q = s.mat q := by
  cases r <;> cases q <;> first | rfl | exact absurd rfl h

/-- What every register reads as after one is put. -/
theorem putMat_mat (s : State) (r q : MReg) (X : Mat) :
    (s.putMat r X).mat q = if q = r then some X else s.mat q := by
  by_cases h : q = r
  · subst h; simp
  · simp [h, putMat_mat_ne s X h]

/-- The register file is the four registers. -/
theorem mat_ext {s t : State} (h : ∀ r, s.mat r = t.mat r) : s.m0 = t.m0 ∧ s.m1 = t.m1 ∧ s.m2 = t.m2 ∧ s.m3 = t.m3 :=
  ⟨h .m0, h .m1, h .m2, h .m3⟩

/-- Two states with the same parts are the same state. -/
theorem State.ext_parts {s t : State} (hf : s.field = t.field) (hc : s.coder = t.coder) (hm : ∀ r, s.mat r = t.mat r)
    (hi : s.din = t.din) (ho : s.dout = t.dout) (hs : s.status = t.status) (hr : s.result = t.result)
    (hv : s.rspValid = t.rspValid) (hh : s.host = t.host) : s = t := by
  obtain ⟨h0, h1, h2, h3⟩ := mat_ext hm
  cases s; cases t; simp_all

/-- The meanings' answer is the claims' answer. -/
theorem respond_ok (v : Nat) (s : State) : respond statusOk (BitVec.ofNat 32 v) s = answerOk v s := rfl

/-- The meanings' error is the claims' error. -/
theorem raise_eq (e : Err) (s : State) : raise e s = answerErr e.code s := rfl

end Sys2Proof.Machine
end

