-- ==== Sys2Proof/Laws/Ops.lean ====
section
/-!
SUPPORT. What the shared operations of a command can do: one lemma per operation, which proofs about meanings cite.
-/

namespace Sys2Proof.Machine

/-! ## Ending a command -/

@[simp] theorem complete_ok (s t : State) (v : Result) : complete s (.ok (t, v)) = .next (respond statusOk v t) := rfl

@[simp] theorem complete_error (s : State) (e : Err) : complete s (.error e) = .next (raise e s) := rfl

/-- A command always answers a next state (R9, R144): the writes of its success, or an error's (R121). -/
theorem complete_cases {s t : State} {r : Except Err (State × Result)} (h : complete s r = .next t) :
    (∃ u v, r = .ok (u, v) ∧ t = respond statusOk v u) ∨ (∃ e, r = .error e ∧ t = raise e s) := by
  rcases r with e | ⟨u, v⟩
  · right; simp at h; exact ⟨e, rfl, h.symm⟩
  · left; simp at h; exact ⟨u, v, rfl, h.symm⟩

theorem complete_answers (s : State) (r : Except Err (State × Result)) : ∃ t, complete s r = .next t := by
  rcases r with e | ⟨u, v⟩ <;> simp

/-- An error's code is never the code of success (R122). -/
@[simp] theorem code_ne_ok (e : Err) : e.code ≠ 0x00#8 := by cases e <;> decide

/-- Every code is one of R122's. -/
theorem code_le (e : Err) : e.code.toNat ≤ 0x0F := by cases e <;> decide

/-- Different errors have different codes (R122). -/
theorem code_injective {e f : Err} (h : e.code = f.code) : e = f := by
  cases e <;> cases f <;> first | rfl | exact absurd h (by decide)

/-- A command that answers success had the writes of `r`. -/
theorem complete_success {s t : State} {r : Except Err (State × Result)} (h : complete s r = .next t)
    (hs : t.status = 0x00#8) : ∃ u v, r = .ok (u, v) ∧ t = respond statusOk v u := by
  rcases complete_cases h with h' | ⟨e, -, rfl⟩
  · exact h'
  · exact absurd hs (by simp)

/-- A command that answers an error wrote nothing else (R121). -/
theorem complete_failure {s t : State} {r : Except Err (State × Result)} (h : complete s r = .next t)
    (hs : t.status ≠ 0x00#8) : ∃ e, r = .error e ∧ t = raise e s := by
  rcases complete_cases h with ⟨u, v, -, rfl⟩ | h'
  · exact absurd rfl hs
  · exact h'

/-! ## Getting operands -/

@[simp] theorem needField_some {s : State} {F : FieldCtx} (h : s.field = some F) : needField s = .ok F := by
  simp [needField, h]

@[simp] theorem needField_none {s : State} (h : s.field = none) : needField s = .error .noField := by
  simp [needField, h]

theorem needField_ok {s : State} {F : FieldCtx} : needField s = .ok F ↔ s.field = some F := by
  unfold needField; cases s.field <;> simp

theorem needField_error {s : State} {e : Err} : needField s = .error e ↔ s.field = none ∧ e = .noField := by
  unfold needField; cases s.field <;> simp [eq_comm]

@[simp] theorem needCoder_some {s : State} {C : Coder} (h : s.coder = some C) : needCoder s = .ok C := by
  simp [needCoder, h]

@[simp] theorem needCoder_none {s : State} (h : s.coder = none) : needCoder s = .error .noCoder := by
  simp [needCoder, h]

theorem needCoder_ok {s : State} {C : Coder} : needCoder s = .ok C ↔ s.coder = some C := by
  unfold needCoder; cases s.coder <;> simp

theorem needCoder_error {s : State} {e : Err} : needCoder s = .error e ↔ s.coder = none ∧ e = .noCoder := by
  unfold needCoder; cases s.coder <;> simp [eq_comm]

@[simp] theorem needMat_some {s : State} {r : MReg} {X : Mat} (h : s.mat r = some X) : needMat s r = .ok X := by
  simp [needMat, h]

@[simp] theorem needMat_none {s : State} {r : MReg} (h : s.mat r = none) : needMat s r = .error .matrixInvalid := by
  simp [needMat, h]

theorem needMat_ok {s : State} {r : MReg} {X : Mat} : needMat s r = .ok X ↔ s.mat r = some X := by
  unfold needMat; cases s.mat r <;> simp

theorem needMat_error {s : State} {r : MReg} {e : Err} :
    needMat s r = .error e ↔ s.mat r = none ∧ e = .matrixInvalid := by
  unfold needMat; cases s.mat r <;> simp [eq_comm]

@[simp] theorem inField_of_lt {F : FieldCtx} {v : Nat} (h : v < F.count) : inField F v = .ok (BitVec.ofNat 8 v) := by
  simp [inField, h]

@[simp] theorem inField_of_ge {F : FieldCtx} {v : Nat} (h : F.count ≤ v) : inField F v = .error .operandOutOfField := by
  simp [inField, h]

theorem inField_ok {F : FieldCtx} {v : Nat} {x : Byte} : inField F v = .ok x ↔ v < F.count ∧ x = BitVec.ofNat 8 v := by
  unfold inField
  split
  · simp; omega
  · simp [eq_comm]; omega

theorem inField_error {F : FieldCtx} {v : Nat} {e : Err} :
    inField F v = .error e ↔ F.count ≤ v ∧ e = .operandOutOfField := by
  unfold inField; split <;> simp [*, eq_comm]

@[simp] theorem require_of {p : Prop} [Decidable p] {e : Err} (h : p) : require p e = .ok () := by simp [require, h]

@[simp] theorem require_of_not {p : Prop} [Decidable p] {e : Err} (h : ¬p) : require p e = .error e := by
  simp [require, h]

theorem require_ok {p : Prop} [Decidable p] {e : Err} {u : Unit} : require p e = .ok u ↔ p := by
  unfold require; split <;> simp [*]

theorem require_error {p : Prop} [Decidable p] {e f : Err} : require p e = .error f ↔ ¬p ∧ f = e := by
  unfold require; split <;> simp [*, eq_comm]

/-! ## Sequencing tests: the `do` blocks of the meanings, one test at a time -/

/-- A sequence succeeds when each part does. -/
theorem bind_ok {α β : Type} {x : Except Err α} {f : α → Except Err β} {b : β} :
    (x >>= f) = .ok b ↔ ∃ a, x = .ok a ∧ f a = .ok b := by
  cases x <;> simp [bind, Except.bind]

/-- A sequence fails at its first part that does (R124). -/
theorem bind_error {α β : Type} {x : Except Err α} {f : α → Except Err β} {e : Err} :
    (x >>= f) = .error e ↔ x = .error e ∨ ∃ a, x = .ok a ∧ f a = .error e := by
  cases x <;> simp [bind, Except.bind]

@[simp] theorem ok_bind {α β : Type} (a : α) (f : α → Except Err β) : ((.ok a : Except Err α) >>= f) = f a := rfl

@[simp] theorem error_bind {α β : Type} (e : Err) (f : α → Except Err β) :
    ((.error e : Except Err α) >>= f) = .error e := rfl

end Sys2Proof.Machine
end

