-- ==== Sys2Proof/Laws/Gf.lean ====
section
/-!
SUPPORT. The functions of the field engine: zero and doubling, the sizes of the tables, what a successful search and a
successful construction give (R43 to R50, R56).
-/

namespace Sys2Proof.Machine

/-! ## Multiplication -/

@[simp] theorem gfDbl_zero (w : Nat) (P : Byte) : gfDbl w P 0#8 = 0#8 := by simp [gfDbl]

theorem mulDirectLoop_zero_left (w : Nat) (P y : Byte) (k i : Nat) (acc : Byte) :
    mulDirectLoop w P y k i 0#8 acc = acc := by
  induction k generalizing i acc with
  | zero => rfl
  | succ k ih => simp [mulDirectLoop, ih]

theorem mulDirectLoop_zero_right (w : Nat) (P : Byte) (k i : Nat) (p acc : Byte) :
    mulDirectLoop w P 0#8 k i p acc = acc := by
  induction k generalizing i p acc with
  | zero => rfl
  | succ k ih => simp [mulDirectLoop, ih]

/-- `0 · y = 0` (R44). -/
@[simp] theorem gfMulDirect_zero_left (w : Nat) (P y : Byte) : gfMulDirect w P 0#8 y = 0#8 :=
  mulDirectLoop_zero_left w P y 8 0 0#8

/-- `x · 0 = 0` (R44). -/
@[simp] theorem gfMulDirect_zero_right (w : Nat) (P x : Byte) : gfMulDirect w P x 0#8 = 0#8 :=
  mulDirectLoop_zero_right w P 8 0 x 0#8

@[simp] theorem gfMulTable_zero_left (F : FieldCtx) (y : Byte) : gfMulTable F 0#8 y = 0#8 := by simp [gfMulTable]

@[simp] theorem gfMulTable_zero_right (F : FieldCtx) (x : Byte) : gfMulTable F x 0#8 = 0#8 := by simp [gfMulTable]

@[simp] theorem gfDivTable_zero (F : FieldCtx) (x : Byte) : gfDivTable F x 0#8 = .error .divideByZero := by
  simp [gfDivTable]

theorem gfDivTable_of_ne {F : FieldCtx} {x y : Byte} (h : y ≠ 0#8) : gfDivTable F x y = .ok (gfQuot F x y) := by
  simp [gfDivTable, h]

/-! ## Sizes of the tables (R11) -/

theorem elementCount_pos (w : Nat) : 0 < elementCount w := Nat.two_pow_pos w

theorem elementCount_le {w : Nat} (h : w ≤ 8) : elementCount w ≤ 256 := by
  unfold elementCount
  calc 2 ^ w ≤ 2 ^ 8 := Nat.pow_le_pow_right (by decide) h
    _ = 256 := by decide

@[simp] theorem powersFrom_length (w : Nat) (P g : Byte) (k : Nat) (v : Byte) : (powersFrom w P g k v).length = k := by
  induction k generalizing v with
  | zero => rfl
  | succ k ih => simp [powersFrom, ih]

/-- The entries of a run of powers: each is the product of the one before with `g` (R47). -/
theorem powersFrom_getD_succ (w : Nat) (P g : Byte) (k : Nat) (v : Byte) (i : Nat) (h : i + 1 < k) :
    (powersFrom w P g k v).getD (i + 1) 0#8 = gfMulDirect w P ((powersFrom w P g k v).getD i 0#8) g := by
  induction k generalizing v i with
  | zero => omega
  | succ k ih =>
    cases i with
    | zero =>
      cases k with
      | zero => omega
      | succ k => simp [powersFrom]
    | succ i => simpa [powersFrom] using ih (gfMulDirect w P v g) i (by omega)

@[simp] theorem powerTable_length (w : Nat) (P g : Byte) : (powerTable w P g).length = elementCount w :=
  powersFrom_length ..

@[simp] theorem setLog_length (log : List Byte) (e : Byte) (i : Nat) : (setLog log e i).length = log.length := by
  unfold setLog; split <;> simp

@[simp] theorem writeLogs_length (ps : List Byte) (i : Nat) (log : List Byte) :
    (writeLogs ps i log).length = log.length := by
  induction ps generalizing i log with
  | nil => rfl
  | cons p ps ih => simp [writeLogs, ih]

@[simp] theorem logTable_length (w : Nat) (power : List Byte) : (logTable w power).length = elementCount w - 1 := by
  simp [logTable]

/-- A built field holds exactly the table cells that exist (R11). -/
theorem buildTables_wf (w : Nat) (P g : Byte) : (buildTables w P g).wf := by
  simp [buildTables, FieldCtx.wf, FieldCtx.count]

@[simp] theorem buildTables_w (w : Nat) (P g : Byte) : (buildTables w P g).w = w := rfl
@[simp] theorem buildTables_poly (w : Nat) (P g : Byte) : (buildTables w P g).poly = P := rfl
@[simp] theorem buildTables_power (w : Nat) (P g : Byte) : (buildTables w P g).power = powerTable w P g := rfl
@[simp] theorem buildTables_log (w : Nat) (P g : Byte) :
    (buildTables w P g).log = logTable w (powerTable w P g) := rfl
@[simp] theorem buildTables_count (w : Nat) (P g : Byte) : (buildTables w P g).count = elementCount w := rfl

/-- The values `2 .. element_count-1`, in ascending order (R46). -/
theorem mem_candidates {w : Nat} (hw : w ≤ 8) (c : Byte) :
    c ∈ candidates w ↔ 2 ≤ c.toNat ∧ c.toNat < elementCount w := by
  have hn := elementCount_le hw
  simp only [candidates, List.mem_map, List.mem_range'_1]
  constructor
  · rintro ⟨n, ⟨h1, h2⟩, rfl⟩
    have : n < 256 := by omega
    rw [BitVec.toNat_ofNat, Nat.mod_eq_of_lt (by simpa using this)]; omega
  · intro ⟨h1, h2⟩
    exact ⟨c.toNat, by omega, by simp⟩

/-- What a successful search found: the first candidate that qualifies (R46). -/
theorem findGenerator_ok {w : Nat} {P g : Byte} :
    findGenerator w P = .ok g ↔ (candidates w).find? (isGenerator w P) = some g := by
  unfold findGenerator; cases (candidates w).find? (isGenerator w P) <;> simp

theorem findGenerator_error {w : Nat} {P : Byte} {e : Err} :
    findGenerator w P = .error e ↔ (∀ c ∈ candidates w, isGenerator w P c = false) ∧ e = .noGeneratorFound := by
  unfold findGenerator
  cases h : (candidates w).find? (isGenerator w P) with
  | none =>
    have h' : ∀ c ∈ candidates w, isGenerator w P c = false := fun c hc => by
      simpa using List.find?_eq_none.1 h c hc
    exact ⟨fun he => ⟨h', (Except.error.inj he).symm⟩, fun he => by rw [he.2]⟩
  | some g =>
    simp only [reduceCtorEq, false_iff, not_and]
    intro h'
    have h1 := List.find?_some h
    have h2 := h' g (List.mem_of_find?_eq_some h)
    simp [h1] at h2

/-- What a successful construction gives (R56): a legal order, the generator found, its tables. -/
theorem constructField_ok {w : Nat} {P g : Byte} {F : FieldCtx} :
    constructField w P = .ok (F, g) ↔
      1 ≤ w ∧ w ≤ 8 ∧ findGenerator w P = .ok g ∧ F = buildTables w P g := by
  by_cases h : w < 1 ∨ 8 < w
  · have : ¬(1 ≤ w ∧ w ≤ 8) := by omega
    simp only [constructField, Config.minOrder, Config.maxOrder, h, if_true]
    constructor
    · intro h'; cases h'
    · rintro ⟨h1, h2, -⟩; exact absurd ⟨h1, h2⟩ this
  · have hw : 1 ≤ w ∧ w ≤ 8 := by omega
    simp only [constructField, Config.minOrder, Config.maxOrder, h, if_false]
    cases hg : findGenerator w P with
    | error e => simp [bind, Except.bind]
    | ok g' =>
      simp only [bind, Except.bind, pure, Except.pure, Except.ok.injEq, Prod.mk.injEq]
      constructor
      · rintro ⟨rfl, rfl⟩; exact ⟨hw.1, hw.2, rfl, rfl⟩
      · rintro ⟨-, -, rfl, rfl⟩; exact ⟨rfl, rfl⟩

/-- How a construction fails (R56): the order first, then the search. -/
theorem constructField_error {w : Nat} {P : Byte} {e : Err} :
    constructField w P = .error e ↔
      (w < 1 ∨ 8 < w) ∧ e = .invalidOrder ∨ (1 ≤ w ∧ w ≤ 8) ∧ findGenerator w P = .error e := by
  by_cases h : w < 1 ∨ 8 < w
  · have : ¬(1 ≤ w ∧ w ≤ 8) := by omega
    simp only [constructField, Config.minOrder, Config.maxOrder, h, if_true, this, false_and, or_false, true_and]
    constructor
    · intro h'; cases h'; rfl
    · rintro rfl; rfl
  · have hw : 1 ≤ w ∧ w ≤ 8 := by omega
    simp only [constructField, Config.minOrder, Config.maxOrder, h, if_false, hw, false_and, false_or, true_and]
    cases hg : findGenerator w P with
    | error e' => simp [bind, Except.bind]
    | ok g' => simp [bind, Except.bind, pure, Except.pure]

/-! ## The encoder's constant field (R15) -/

theorem coderField_generator : findGenerator 8 0x1D#8 = .ok 2#8 := by decide +kernel

theorem coderField_powerTable : powerTable 8 0x1D#8 2#8 = coderPower := by decide +kernel

theorem coderField_logTable : logTable 8 coderPower = coderLog := by decide +kernel

/-- The constant field of the encoder is what the construction of R56 gives for `w = 8`, `P = 0x1D` (R15). -/
theorem coderField_constructed : constructField 8 0x1D#8 = .ok (coderField, 2#8) :=
  constructField_ok.2 ⟨by decide, by decide, coderField_generator, by
    unfold buildTables; rw [coderField_powerTable, coderField_logTable]; rfl⟩

@[simp] theorem coderField_count : coderField.count = 256 := by decide

theorem coderField_wf : coderField.wf := by decide +kernel

end Sys2Proof.Machine
end

