-- ==== Sys2Proof/Laws/Matrix.lean ====
section
/-!
SUPPORT. The functions of the matrix unit and of the encoder: shapes, entries, and what each can answer (R71 to R79,
R97, R98).
-/

namespace Sys2Proof.Machine

/-! ## Row-major layout -/

@[simp] theorem build_rows (rows cols : Nat) (f : Nat → Nat → Byte) : (Mat.build rows cols f).rows = rows := rfl
@[simp] theorem build_cols (rows cols : Nat) (f : Nat → Nat → Byte) : (Mat.build rows cols f).cols = cols := rfl

@[simp] theorem build_length (rows cols : Nat) (f : Nat → Nat → Byte) :
    (Mat.build rows cols f).e.length = rows * cols := by
  simp [Mat.build]

/-- The entry of a run of rows at index `r * cols + c` is entry `c` of row `r`. -/
theorem flatMap_rows_getD (f : Nat → Nat → Byte) (cols : Nat) (l : List Nat) (r c : Nat) (hr : r < l.length)
    (hc : c < cols) :
    (l.flatMap fun r => (List.range cols).map (f r)).getD (r * cols + c) 0#8 = f (l.getD r 0) c := by
  induction l generalizing r with
  | nil => simp at hr
  | cons a l ih =>
    cases r with
    | zero =>
      simp only [Nat.zero_mul, Nat.zero_add, List.flatMap_cons, List.getD_cons_zero]
      rw [List.getD_append _ _ _ _ (by simpa using hc)]
      simp [hc]
    | succ r =>
      simp only [List.flatMap_cons, List.getD_cons_succ]
      rw [List.getD_append_right _ _ _ _ (by simp; nlinarith)]
      simp only [List.length_map, List.length_range]
      have : (r + 1) * cols + c - cols = r * cols + c := by
        rw [Nat.succ_mul]; omega
      rw [this]
      exact ih r (by simpa using hr)

/-- Entry `(r, c)` of a built matrix is the value it was built from (R71). -/
theorem build_at {rows cols : Nat} (f : Nat → Nat → Byte) {r c : Nat} (hr : r < rows) (hc : c < cols) :
    (Mat.build rows cols f).at r c = f r c := by
  have h := flatMap_rows_getD f cols (List.range rows) r c (by simpa using hr) hc
  simpa [Mat.at, Mat.build, hr] using h

/-- An index inside the shape is inside the store (R17). -/
theorem index_lt {rows cols r c : Nat} (hr : r < rows) (hc : c < cols) : r * cols + c < rows * cols := by
  have : (r + 1) * cols ≤ rows * cols := Nat.mul_le_mul_right cols hr
  rw [Nat.succ_mul] at this; omega

/-- Different positions of a shape are different indices (R17). -/
theorem index_injective {cols r c r' c' : Nat} (hc : c < cols) (hc' : c' < cols)
    (h : r * cols + c = r' * cols + c') : r = r' ∧ c = c' := by
  have h1 : (r * cols + c) / cols = r := by
    rw [Nat.mul_comm, Nat.mul_add_div (by omega), Nat.div_eq_of_lt hc]; rfl
  have h2 : (r' * cols + c') / cols = r' := by
    rw [Nat.mul_comm, Nat.mul_add_div (by omega), Nat.div_eq_of_lt hc']; rfl
  have : r = r' := by rw [← h1, h, h2]
  subst this
  exact ⟨rfl, by omega⟩

@[simp] theorem put_rows (X : Mat) (r c : Nat) (v : Byte) : (X.put r c v).rows = X.rows := rfl
@[simp] theorem put_cols (X : Mat) (r c : Nat) (v : Byte) : (X.put r c v).cols = X.cols := rfl
@[simp] theorem put_length (X : Mat) (r c : Nat) (v : Byte) : (X.put r c v).e.length = X.e.length := by simp [Mat.put]

theorem put_wf {X : Mat} (h : X.wf) (r c : Nat) (v : Byte) : (X.put r c v).wf := by
  simpa [Mat.wf] using h

/-! ## What each function can answer -/

theorem matNew_ok {rows cols : Nat} {fill : Byte} {X : Mat} :
    matNew rows cols fill = .ok X ↔
      rows ≤ 256 ∧ cols ≤ 256 ∧ X = { rows := rows, cols := cols, e := List.replicate (rows * cols) fill } := by
  unfold matNew Config.maxDim
  split
  · simp; omega
  · simp only [Except.ok.injEq]
    constructor
    · rintro rfl; exact ⟨by omega, by omega, rfl⟩
    · rintro ⟨-, -, rfl⟩; rfl

theorem matNew_wf {rows cols : Nat} {fill : Byte} {X : Mat} (h : matNew rows cols fill = .ok X) : X.wf := by
  obtain ⟨h1, h2, rfl⟩ := matNew_ok.1 h
  exact ⟨h1, h2, by simp⟩

theorem matIdentity_ok {n : Nat} {X : Mat} :
    matIdentity n = .ok X ↔ 1 ≤ n ∧ n ≤ 256 ∧ X = Mat.build n n fun r c => if r = c then 1#8 else 0#8 := by
  unfold matIdentity Config.maxDim
  split
  · simp; omega
  · split
    · simp; omega
    · simp only [Except.ok.injEq]
      constructor
      · rintro rfl; exact ⟨by omega, by omega, rfl⟩
      · rintro ⟨-, -, rfl⟩; rfl

theorem matIdentity_wf {n : Nat} {X : Mat} (h : matIdentity n = .ok X) : X.wf := by
  obtain ⟨-, h2, rfl⟩ := matIdentity_ok.1 h
  exact ⟨h2, h2, by simp⟩

theorem matColvec_wf {v : List Byte} (h : v.length ≤ 256) : (matColvec v).wf :=
  ⟨h, Nat.one_le_two_pow (n := 8), by simp [matColvec]⟩

theorem matCauchy_ok {F : FieldCtx} {rows cols : Nat} {X : Mat} :
    matCauchy F rows cols = .ok X ↔
      (rows ≤ 255 ∧ cols ≤ 255) ∧ rows + cols ≤ F.count ∧ ¬(1 ≤ rows ∧ 1 ≤ cols ∧ rows + cols = F.count) ∧
        X = Mat.build rows cols fun i j => gfQuot F 1#8 (gfAdd (cauchyX i) (cauchyY rows j)) := by
  unfold matCauchy Config.cauchyLimit
  split
  · simp; omega
  · split
    · simp; omega
    · split
      · rename_i h
        simp only [reduceCtorEq, false_iff]
        exact fun h' => h'.2.2.1 h
      · rename_i h
        simp only [Except.ok.injEq]
        constructor
        · rintro rfl; exact ⟨by omega, by omega, h, rfl⟩
        · rintro ⟨-, -, -, rfl⟩; rfl

theorem matCauchy_wf {F : FieldCtx} {rows cols : Nat} {X : Mat} (h : matCauchy F rows cols = .ok X) : X.wf := by
  obtain ⟨⟨h1, h2⟩, -, -, rfl⟩ := matCauchy_ok.1 h
  exact ⟨Nat.le_succ_of_le h1, Nat.le_succ_of_le h2, by simp⟩

/-- The divisor of a Cauchy entry is never the zero element (R75): `x_i` and `y_j` are different bytes. -/
theorem cauchy_divisor_ne_zero {rows cols i j : Nat} (hi : i < rows) (hj : j < cols) (h : rows + cols ≤ 255) :
    gfAdd (cauchyX i) (cauchyY rows j) ≠ 0#8 := by
  unfold gfAdd
  intro h0
  rw [BitVec.xor_eq_zero_iff] at h0
  have := congrArg BitVec.toNat h0
  simp only [cauchyX, cauchyY, BitVec.toNat_ofNat] at this
  rw [Nat.mod_eq_of_lt (by omega), Nat.mod_eq_of_lt (by omega)] at this
  omega

theorem matAppend_ok {T B X : Mat} :
    matAppend T B = .ok X ↔
      T.cols = B.cols ∧ T.rows + B.rows ≤ 256 ∧ X = { rows := T.rows + B.rows, cols := T.cols, e := T.e ++ B.e } := by
  unfold matAppend Config.maxDim
  split
  · simp [*]
  · split
    · simp; omega
    · simp only [Except.ok.injEq]
      constructor
      · rintro rfl; exact ⟨by simp_all, by omega, rfl⟩
      · rintro ⟨-, -, rfl⟩; rfl

theorem matAppend_wf {T B X : Mat} (hT : T.wf) (hB : B.wf) (h : matAppend T B = .ok X) : X.wf := by
  obtain ⟨h1, h2, rfl⟩ := matAppend_ok.1 h
  refine ⟨h2, hT.2.1, ?_⟩
  simp only [List.length_append, hT.2.2, hB.2.2, h1, Nat.add_mul]

theorem matMulF_ok {F : FieldCtx} {A B X : Mat} :
    matMulF F A B = .ok X ↔
      A.cols = B.cols ∧ (A.outOfField F || B.outOfField F) = false ∧ X = Mat.build A.rows B.rows (rowProduct F A B) := by
  unfold matMulF
  split
  · simp [*]
  · split
    · rename_i h
      simp only [reduceCtorEq, false_iff]
      rintro ⟨-, h', -⟩; rw [h] at h'; cases h'
    · rename_i h1 h2
      simp only [Except.ok.injEq]
      constructor
      · rintro rfl; exact ⟨by simp_all, Bool.not_eq_true _ ▸ h2, rfl⟩
      · rintro ⟨-, -, rfl⟩; rfl

theorem matMulF_wf {F : FieldCtx} {A B X : Mat} (hA : A.wf) (hB : B.wf) (h : matMulF F A B = .ok X) : X.wf := by
  obtain ⟨-, -, rfl⟩ := matMulF_ok.1 h
  exact ⟨hA.1, hB.1, by simp⟩

/-! ## The encoder -/

/-- What a successful `rs_new` built (R97). -/
theorem rsNew_ok {k m : Nat} {C : Coder} (h : rsNew k m = .ok C) :
    1 ≤ k ∧ k ≤ 255 ∧ m ≤ 255 ∧ (k + m ≤ 255 ∨ m = 0) ∧ ∃ I Cm, matIdentity k = .ok I ∧ matCauchy coderField m k = .ok Cm ∧
      C = { dataNum := k, parityNum := m, g := I.e ++ Cm.e } := by
  unfold rsNew at h
  simp only [coderField_count, Config.cauchyLimit] at h
  split at h
  · cases h
  rename_i h1
  split at h
  · cases h
  rename_i h2
  split at h
  · cases h
  rename_i h3
  split at h
  · cases h
  rename_i h4
  simp only [pure, Except.pure] at h
  obtain ⟨I, hI, h⟩ := bind_ok.1 h
  obtain ⟨Cm, hC, h⟩ := bind_ok.1 h
  obtain ⟨G, hG, h⟩ := bind_ok.1 h
  obtain ⟨-, -, rfl⟩ := matAppend_ok.1 hG
  cases h
  exact ⟨by omega, by omega, by omega, by omega, I, Cm, hI, hC, rfl⟩

/-- A built encoder holds exactly the generator entries that exist, with legal counts (R14, R16). -/
theorem rsNew_wf {k m : Nat} {C : Coder} (h : rsNew k m = .ok C) : C.wf := by
  obtain ⟨h1, h2, h3, h4, I, Cm, hI, hC, rfl⟩ := rsNew_ok h
  obtain ⟨-, -, rfl⟩ := matIdentity_ok.1 hI
  obtain ⟨-, -, -, rfl⟩ := matCauchy_ok.1 hC
  refine ⟨h1, by simp only; omega, ?_⟩
  simp [Nat.add_mul]

theorem rsNew_dataNum {k m : Nat} {C : Coder} (h : rsNew k m = .ok C) : C.dataNum = k := by
  obtain ⟨-, -, -, -, I, Cm, -, -, rfl⟩ := rsNew_ok h; rfl

theorem rsNew_parityNum {k m : Nat} {C : Coder} (h : rsNew k m = .ok C) : C.parityNum = m := by
  obtain ⟨-, -, -, -, I, Cm, -, -, rfl⟩ := rsNew_ok h; rfl

/-- Every byte is an element of the encoder's field (R98). -/
theorem outOfField_coderField (X : Mat) : X.outOfField coderField = false := by
  simp only [Mat.outOfField, coderField_count, List.any_eq_false, decide_eq_true_eq]
  intro v _
  have := v.isLt
  omega

/-- `rs_encode` succeeds exactly on data of the right length (R98, R129). -/
theorem rsEncode_ok {C : Coder} {data v : List Byte} :
    rsEncode C data = .ok v ↔ data.length = C.dataNum ∧
      v = (Mat.build (C.dataNum + C.parityNum) 1
        (rowProduct coderField C.gMat { rows := 1, cols := C.dataNum, e := data })).e := by
  unfold rsEncode
  by_cases h : data.length = C.dataNum
  · have hm : matMulF coderField C.gMat { rows := 1, cols := C.dataNum, e := data } =
        .ok (Mat.build (C.dataNum + C.parityNum) 1
          (rowProduct coderField C.gMat { rows := 1, cols := C.dataNum, e := data })) :=
      matMulF_ok.2 ⟨rfl, by simp [outOfField_coderField], rfl⟩
    simp [h, hm, matToVec, pure, Except.pure, bind, Except.bind, eq_comm]
  · simp [h, throw, throwThe, MonadExceptOf.throw, bind, Except.bind]

theorem rsEncode_error {C : Coder} {data : List Byte} {e : Err} :
    rsEncode C data = .error e ↔ data.length ≠ C.dataNum ∧ e = .sizeMismatch := by
  by_cases h : data.length = C.dataNum
  · have := (rsEncode_ok (C := C) (data := data)).2 ⟨h, rfl⟩
    simp [this, h]
  · unfold rsEncode
    simp [h, throw, throwThe, MonadExceptOf.throw, bind, Except.bind, eq_comm]

/-- A codeword has one byte per fragment (R98). -/
theorem rsEncode_length {C : Coder} {data v : List Byte} (h : rsEncode C data = .ok v) :
    v.length = C.dataNum + C.parityNum := by
  obtain ⟨-, rfl⟩ := rsEncode_ok.1 h; simp

end Sys2Proof.Machine
end

