-- ==== Sys2Proof/Laws/Memory.lean ====
section
/-!
SUPPORT. Every operation over the storage spaces of R25 keeps their canonical form `Memory.wf`, and the state after
reset has it.
-/

namespace Sys2Proof.Machine

theorem reset_memory_wf : Memory.wf State.reset := by simp [Memory.wf, State.reset]

/-- The form of the matrix registers, one statement for the four. -/
theorem Memory.wf_mat {s : State} (h : Memory.wf s) {r : MReg} {X : Mat} (hX : s.mat r = some X) : X.wf := by
  obtain ⟨-, -, h0, h1, h2, h3, -, -⟩ := h
  cases r
  · exact h0 X hX
  · exact h1 X hX
  · exact h2 X hX
  · exact h3 X hX

theorem respond_wf {s : State} (h : Memory.wf s) (c : Byte) (v : Result) : Memory.wf (respond c v s) := h

theorem raise_wf {s : State} (h : Memory.wf s) (e : Err) : Memory.wf (raise e s) := h

theorem putMat_wf {s : State} (h : Memory.wf s) {X : Mat} (hX : X.wf) (r : MReg) : Memory.wf (s.putMat r X) := by
  obtain ⟨hf, hc, h0, h1, h2, h3, hi, ho⟩ := h
  have hX' : ∀ Y ∈ some X, Y.wf := fun Y hY => by simpa using Option.some.inj hY ▸ hX
  cases r
  · exact ⟨hf, hc, hX', h1, h2, h3, hi, ho⟩
  · exact ⟨hf, hc, h0, hX', h2, h3, hi, ho⟩
  · exact ⟨hf, hc, h0, h1, hX', h3, hi, ho⟩
  · exact ⟨hf, hc, h0, h1, h2, hX', hi, ho⟩

theorem putDout_wf {s : State} (h : Memory.wf s) {v : List Byte} (hv : v.length ≤ Config.doutCap) :
    Memory.wf (s.putDout v) := by
  obtain ⟨hf, hc, h0, h1, h2, h3, hi, -⟩ := h
  exact ⟨hf, hc, h0, h1, h2, h3, hi, hv⟩

theorem pushDin_wf {s : State} (h : Memory.wf s) (v : Byte) (hv : s.din.length < Config.dinCap) :
    Memory.wf (s.pushDin v) := by
  obtain ⟨hf, hc, h0, h1, h2, h3, -, ho⟩ := h
  exact ⟨hf, hc, h0, h1, h2, h3, by simpa using hv, ho⟩

theorem clearDin_wf {s : State} (h : Memory.wf s) : Memory.wf s.clearDin := by
  obtain ⟨hf, hc, h0, h1, h2, h3, -, ho⟩ := h
  exact ⟨hf, hc, h0, h1, h2, h3, by simp, ho⟩

theorem putField_wf {s : State} (h : Memory.wf s) {F : FieldCtx} (hF : F.wf) : Memory.wf (s.putField F) := by
  obtain ⟨-, hc, h0, h1, h2, h3, hi, ho⟩ := h
  exact ⟨fun G hG => by simpa using Option.some.inj hG ▸ hF, hc, h0, h1, h2, h3, hi, ho⟩

theorem putCoder_wf {s : State} (h : Memory.wf s) {C : Coder} (hC : C.wf) : Memory.wf (s.putCoder C) := by
  obtain ⟨hf, -, h0, h1, h2, h3, hi, ho⟩ := h
  exact ⟨hf, fun D hD => by simpa using Option.some.inj hD ▸ hC, h0, h1, h2, h3, hi, ho⟩

theorem clearAll_wf (s : State) : Memory.wf s.clearAll := by simp [Memory.wf]

theorem hardReset_wf (s : State) : Memory.wf (hardReset s) := by simp [Memory.wf]

theorem idle_wf {s : State} (h : Memory.wf s) : Memory.wf (idle s) := h

theorem illegalCommand_wf {s : State} (h : Memory.wf s) : Memory.wf (illegalCommand s) := h

/-- The host's words are no storage of the block. -/
theorem offer_wf {s : State} (h : Memory.wf s) (wd : Word) : Memory.wf (s.offer wd) := h

theorem accept_wf {s t : State} {e : HostEvent} (h : Memory.wf s) (ha : accept s = some (e, t)) : Memory.wf t := by
  unfold accept at ha
  split at ha
  · cases ha
  · cases ha; exact h

end Sys2Proof.Machine
end

