-- ==== Sys2Proof/Laws/PerInstr.lean ====
section
/-!
SUPPORT. Statements about every command, one lemma per constructor.
`OpcodeOfEncode`: the opcode field of a command's word is the opcode of its mnemonic (R37).
-/

namespace Sys2Proof.Laws.OpcodeOfEncode

/-- The opcode field of the command's word is the opcode R37 gives its mnemonic, and the reserved field is zero (R38). -/
def Statement (i : Instr) : Prop := opField (encode i) = i.mnemonic.op ∧ zeroField (encode i) = 0#10

theorem nop : Statement (.nop) := ⟨opField_pack .., zeroField_pack ..⟩
theorem reset : Statement (.reset) := ⟨opField_pack .., zeroField_pack ..⟩
theorem field (w : Nat) (poly : Byte) : Statement (.field w poly) := ⟨opField_pack .., zeroField_pack ..⟩
theorem gfadd (x y : Nat) : Statement (.gfadd x y) := ⟨opField_pack .., zeroField_pack ..⟩
theorem gfsub (x y : Nat) : Statement (.gfsub x y) := ⟨opField_pack .., zeroField_pack ..⟩
theorem gfmuld (x y : Nat) : Statement (.gfmuld x y) := ⟨opField_pack .., zeroField_pack ..⟩
theorem gfmult (x y : Nat) : Statement (.gfmult x y) := ⟨opField_pack .., zeroField_pack ..⟩
theorem gfdivt (x y : Nat) : Statement (.gfdivt x y) := ⟨opField_pack .., zeroField_pack ..⟩
theorem isgen (cand : Nat) : Statement (.isgen cand) := ⟨opField_pack .., zeroField_pack ..⟩
theorem mingen : Statement (.mingen) := ⟨opField_pack .., zeroField_pack ..⟩
theorem allgen : Statement (.allgen) := ⟨opField_pack .., zeroField_pack ..⟩
theorem rdpow (i : Nat) : Statement (.rdpow i) := ⟨opField_pack .., zeroField_pack ..⟩
theorem rdlog (e : Nat) : Statement (.rdlog e) := ⟨opField_pack .., zeroField_pack ..⟩
theorem rdfld : Statement (.rdfld) := ⟨opField_pack .., zeroField_pack ..⟩
theorem mnew (md : MReg) (rows cols : Nat) (fill : Byte) : Statement (.mnew md rows cols fill) := ⟨opField_pack .., zeroField_pack ..⟩
theorem mident (md : MReg) (n : Nat) : Statement (.mident md n) := ⟨opField_pack .., zeroField_pack ..⟩
theorem mcolv (md : MReg) : Statement (.mcolv md) := ⟨opField_pack .., zeroField_pack ..⟩
theorem mcauchy (md : MReg) (rows cols : Nat) : Statement (.mcauchy md rows cols) := ⟨opField_pack .., zeroField_pack ..⟩
theorem mappend (md ma mb : MReg) : Statement (.mappend md ma mb) := ⟨opField_pack .., zeroField_pack ..⟩
theorem mmulf (md ma mb : MReg) : Statement (.mmulf md ma mb) := ⟨opField_pack .., zeroField_pack ..⟩
theorem mtovec (ma : MReg) : Statement (.mtovec ma) := ⟨opField_pack .., zeroField_pack ..⟩
theorem mrd (ma : MReg) (r col : Nat) : Statement (.mrd ma r col) := ⟨opField_pack .., zeroField_pack ..⟩
theorem mwr (md : MReg) (r col : Nat) (value : Byte) : Statement (.mwr md r col value) := ⟨opField_pack .., zeroField_pack ..⟩
theorem mdim (ma : MReg) : Statement (.mdim ma) := ⟨opField_pack .., zeroField_pack ..⟩
theorem dclr : Statement (.dclr) := ⟨opField_pack .., zeroField_pack ..⟩
theorem dpush (byte : Byte) : Statement (.dpush byte) := ⟨opField_pack .., zeroField_pack ..⟩
theorem rdout (i : Nat) : Statement (.rdout i) := ⟨opField_pack .., zeroField_pack ..⟩
theorem rdolen : Statement (.rdolen) := ⟨opField_pack .., zeroField_pack ..⟩
theorem rsnew (dataNum parityNum : Nat) : Statement (.rsnew dataNum parityNum) := ⟨opField_pack .., zeroField_pack ..⟩
theorem rsenc : Statement (.rsenc) := ⟨opField_pack .., zeroField_pack ..⟩
theorem rsrdg (r col : Nat) : Statement (.rsrdg r col) := ⟨opField_pack .., zeroField_pack ..⟩
theorem rsdim : Statement (.rsdim) := ⟨opField_pack .., zeroField_pack ..⟩

end Sys2Proof.Laws.OpcodeOfEncode
end

