-- ==== Sys2Proof/Tests/Slice0.lean ====
section
/-!
SUPPORT. Tests with results taken from the spec's own examples and tables, and a witness for the hypotheses of every
statement that has some. Each comment names where the expected value stands.
-/

namespace Sys2Proof.Tests

open Sys2Proof.Machine

set_option Elab.async false

/-! ## Small states -/

/-- STATUS and RESULT after one command. -/
def answer (i : Instr) (s : State) : Byte × Result :=
  match exec i s with
  | .next t => (t.status, t.result)
  | .fault _ => (0xFF#8, 0#32)
  | .refused _ => (0xFF#8, 0#32)

/-- The state after one command. -/
def after (i : Instr) (s : State) : State :=
  match exec i s with
  | .next t => t
  | .fault _ => s
  | .refused _ => s

/-- The state after one step. -/
def stepped (s : State) : Option State :=
  match step s with
  | .next t => some t
  | .fault _ => none
  | .refused _ => none

/-- GF(2^3, 0x0B) as R56's example lists it. -/
def gf8 : FieldCtx :=
  { w := 3, poly := 0x0B#8, power := [1#8, 2#8, 4#8, 3#8, 6#8, 7#8, 5#8, 1#8],
    log := [0#8, 1#8, 3#8, 2#8, 6#8, 4#8, 5#8] }

/-- Reset, then a field given. -/
def inField (F : FieldCtx) : State := { State.reset with field := some F }

/-- The Cauchy matrix of R84's example. -/
def cauchy25 : Mat :=
  { rows := 2, cols := 5, e := [5#8, 2#8, 7#8, 4#8, 3#8, 1#8, 3#8, 4#8, 7#8, 2#8] }

/-- The parity rows and the data row of R78's example. -/
def parity23 : Mat := { rows := 2, cols := 3, e := [0x8E#8, 0xA7#8, 0x47#8, 0x01#8, 0x7A#8, 0xBA#8] }
def data13 : Mat := { rows := 1, cols := 3, e := [0x11#8, 0x22#8, 0x33#8] }

/-- Two one-entry matrices over GF(2^3, 0x0B). -/
def one11 : Mat := { rows := 1, cols := 1, e := [5#8] }
def two11 : Mat := { rows := 1, cols := 1, e := [6#8] }

/-- The encoder with two data bytes and one parity byte: the identity above the inverses of `1 xor 2 = 3` and
`1 xor 3 = 2` (R97), which are `0xF4` and `0x8E` (R52: `3 · 0xF4 = 2 · 0x8E = 1`). -/
def coder21 : Coder := { dataNum := 2, parityNum := 1, g := [1#8, 0#8, 0#8, 1#8, 0xF4#8, 0x8E#8] }

/-- Reset, then an encoder and input bytes given. -/
def withCoder (data : List Byte) : State := { State.reset with coder := some coder21, din := data }

/-! ## WellFormed refuses each operand that does not fit its field (R35, R36) -/

theorem test_wf_field : Instr.wf (.field 65536 0#8) = false := by decide
theorem test_wf_gfadd : Instr.wf (.gfadd 65536 0) = false ∧ Instr.wf (.gfadd 0 65536) = false := by decide
theorem test_wf_gfsub : Instr.wf (.gfsub 65536 0) = false ∧ Instr.wf (.gfsub 0 65536) = false := by decide
theorem test_wf_gfmuld : Instr.wf (.gfmuld 65536 0) = false ∧ Instr.wf (.gfmuld 0 65536) = false := by decide
theorem test_wf_gfmult : Instr.wf (.gfmult 65536 0) = false ∧ Instr.wf (.gfmult 0 65536) = false := by decide
theorem test_wf_gfdivt : Instr.wf (.gfdivt 65536 0) = false ∧ Instr.wf (.gfdivt 0 65536) = false := by decide
theorem test_wf_one_scalar : Instr.wf (.isgen 65536) = false ∧ Instr.wf (.rdpow 65536) = false ∧
    Instr.wf (.rdlog 65536) = false ∧ Instr.wf (.rdout 65536) = false ∧ Instr.wf (.mident .m0 65536) = false := by decide
theorem test_wf_mnew : Instr.wf (.mnew .m0 65536 0 0#8) = false ∧ Instr.wf (.mnew .m0 0 65536 0#8) = false := by decide
theorem test_wf_mcauchy : Instr.wf (.mcauchy .m0 65536 0) = false ∧ Instr.wf (.mcauchy .m0 0 65536) = false := by decide
theorem test_wf_mrd : Instr.wf (.mrd .m0 65536 0) = false ∧ Instr.wf (.mrd .m0 0 65536) = false := by decide
theorem test_wf_mwr : Instr.wf (.mwr .m0 65536 0 0#8) = false ∧ Instr.wf (.mwr .m0 0 65536 0#8) = false := by decide
theorem test_wf_rsnew : Instr.wf (.rsnew 65536 0) = false ∧ Instr.wf (.rsnew 0 65536) = false := by decide
theorem test_wf_rsrdg : Instr.wf (.rsrdg 65536 0) = false ∧ Instr.wf (.rsrdg 0 65536) = false := by decide
theorem test_wf_accepts : Instr.wf (.mnew .m3 65535 65535 0xFF#8) = true ∧ Instr.wf .nop = true := by decide

/-! ## Decoding: the words of 96_derived_vectors.md section 2.8, one per command -/

theorem test_decode_system :
    decode 0x0000000000000000#64 = some .nop ∧ decode 0x0100000000000000#64 = some .reset := by decide +kernel

theorem test_decode_field :
    decode 0x1000001D00080000#64 = some (.field 8 0x1D#8) ∧
    decode 0x11000000005300CA#64 = some (.gfadd 0x53 0xCA) ∧
    decode 0x1200000000050006#64 = some (.gfsub 5 6) ∧
    decode 0x1300000000800002#64 = some (.gfmuld 0x80 2) ∧
    decode 0x14000000005300CA#64 = some (.gfmult 0x53 0xCA) ∧
    decode 0x150000000002008E#64 = some (.gfdivt 2 0x8E) ∧
    decode 0x1600000000020000#64 = some (.isgen 2) ∧
    decode 0x1700000000000000#64 = some .mingen ∧
    decode 0x1800000000000000#64 = some .allgen ∧
    decode 0x1900000000080000#64 = some (.rdpow 8) ∧
    decode 0x1A000000001D0000#64 = some (.rdlog 0x1D) ∧
    decode 0x1B00000000000000#64 = some .rdfld := by decide +kernel

theorem test_decode_matrix :
    decode 0x20C0000700010003#64 = some (.mnew .m3 1 3 7#8) ∧
    decode 0x2180000000030000#64 = some (.mident .m2 3) ∧
    decode 0x2240000000000000#64 = some (.mcolv .m1) ∧
    decode 0x2340000000020005#64 = some (.mcauchy .m1 2 5) ∧
    decode 0x24B4000000000000#64 = some (.mappend .m2 .m3 .m1) ∧
    decode 0x256C000000000000#64 = some (.mmulf .m1 .m2 .m3) ∧
    decode 0x2610000000000000#64 = some (.mtovec .m1) ∧
    decode 0x2710000000010003#64 = some (.mrd .m1 1 3) ∧
    decode 0x28C0002200000001#64 = some (.mwr .m3 0 1 0x22#8) ∧
    decode 0x2920000000000000#64 = some (.mdim .m2) := by decide +kernel

theorem test_decode_buffers :
    decode 0x3000000000000000#64 = some .dclr ∧
    decode 0x3100001000000000#64 = some (.dpush 0x10#8) ∧
    decode 0x32000000000A0000#64 = some (.rdout 10) ∧
    decode 0x3300000000000000#64 = some .rdolen := by decide +kernel

theorem test_decode_encoder :
    decode 0x40000000000A0002#64 = some (.rsnew 10 2) ∧
    decode 0x4100000000000000#64 = some .rsenc ∧
    decode 0x42000000000A0001#64 = some (.rsrdg 10 1) ∧
    decode 0x4300000000000000#64 = some .rsdim := by decide +kernel

/-- The illegal words of section 2.8. -/
theorem test_decode_illegal :
    [0x0200000000000000#64, 0x1C00000000000000#64, 0x2A00000000000000#64, 0x3400000000000000#64, 0x4400000000000000#64,
     0xFF00000000000000#64, 0xFFFFFFFFFFFFFFFF#64, 0x0000000000000001#64, 0x0000010000000000#64, 0x0100000000010000#64,
     0x14000001005300CA#64, 0x14400000005300CA#64, 0x1000020B00030000#64, 0x1000000B00030001#64, 0x2104000000030000#64,
     0x2610000000000001#64, 0x2640000000000000#64, 0x3100001000000001#64, 0x4100000000000001#64].all
      (fun wd => (decode wd).isNone) = true := by decide +kernel

/-- The masks of R37's two examples. -/
theorem test_mask :
    Mnemonic.GFMULT.mask = 0xFFFFFFFF00000000#64 ∧ Mnemonic.MMULF.mask = 0xFF03FFFFFFFFFFFF#64 := by decide +kernel

/-- The table word of a row is what the next step runs, from reset. -/
theorem test_withFetchWord :
    decodeTableWord 64 0x3100001000000000 = some (.dpush 0x10#8) ∧
    stepped (State.reset.withFetchWord 64 0x3100001000000000) =
      some { State.reset with din := [0x10#8], result := 1#32, rspValid := true } := by decide +kernel

/-! ## One command each: the examples of the commands' own rules -/

/-- R111. -/
theorem test_nop : answer .nop State.reset = (0x00#8, 0#32) ∧
    after .nop State.reset = { State.reset with rspValid := true } := by decide
/-- R112: a built encoder and its input are gone. -/
theorem test_reset : after .reset (withCoder [1#8, 2#8]) = { State.reset with rspValid := true } := by decide
/-- R56. -/
theorem test_field : answer (.field 3 0x0B#8) State.reset = (0x00#8, 2#32) ∧
    (after (.field 3 0x0B#8) State.reset).field = some gf8 := by decide +kernel
/-- R56; a failing construction keeps the old field. -/
theorem test_field_errors : answer (.field 9 0x1D#8) State.reset = (0x01#8, 0#32) ∧
    answer (.field 3 0x0C#8) (inField gf8) = (0x02#8, 0#32) ∧
    (after (.field 3 0x0C#8) (inField gf8)).field = some gf8 := by decide +kernel
/-- R57. -/
theorem test_gfadd : answer (.gfadd 0x53 0xCA) (inField coderField) = (0x00#8, 0x99#32) := by decide +kernel
/-- R58; R55. -/
theorem test_gfsub : answer (.gfsub 5 6) (inField gf8) = (0x00#8, 3#32) ∧
    answer (.gfsub 5 8) (inField gf8) = (0x0B#8, 0#32) := by decide +kernel
/-- R59; R44's example. -/
theorem test_gfmuld : answer (.gfmuld 0x80 2) (inField coderField) = (0x00#8, 0x1D#32) ∧
    answer (.gfmuld 5 6) (inField gf8) = (0x00#8, 3#32) := by decide +kernel
/-- R60: `POWER[24] = 0x8F`. -/
theorem test_gfmult : answer (.gfmult 0x53 0xCA) (inField coderField) = (0x00#8, 0x8F#32) := by decide +kernel
/-- R61. -/
theorem test_gfdivt : answer (.gfdivt 2 0x8E) (inField coderField) = (0x00#8, 4#32) ∧
    answer (.gfdivt 0 0) (inField coderField) = (0x07#8, 0#32) := by decide +kernel
/-- R62: `POWER[1]` qualifies, 0 and 1 do not. -/
theorem test_isgen : answer (.isgen 2) (inField gf8) = (0x00#8, 1#32) ∧
    answer (.isgen 1) (inField gf8) = (0x00#8, 0#32) ∧ answer (.isgen 0) (inField gf8) = (0x00#8, 0#32) := by
  decide +kernel
/-- R63; R55. -/
theorem test_mingen : answer .mingen (inField gf8) = (0x00#8, 2#32) ∧
    answer .mingen State.reset = (0x09#8, 0#32) := by decide +kernel
/-- R64 in a field whose group has prime order 7, so that `2 .. 7` all qualify. -/
theorem test_allgen : answer .allgen (inField gf8) = (0x00#8, 6#32) ∧
    (after .allgen (inField gf8)).dout = [2#8, 3#8, 4#8, 5#8, 6#8, 7#8] := by decide +kernel
/-- R65. -/
theorem test_rdpow : answer (.rdpow 8) (inField coderField) = (0x00#8, 0x1D#32) ∧
    answer (.rdpow 8) (inField gf8) = (0x0E#8, 0#32) := by decide +kernel
/-- R66. -/
theorem test_rdlog : answer (.rdlog 0x1D) (inField coderField) = (0x00#8, 8#32) ∧
    answer (.rdlog 0) (inField gf8) = (0x0E#8, 0#32) := by decide +kernel
/-- R67. -/
theorem test_rdfld : answer .rdfld (inField gf8) = (0x00#8, 0x8000030B#32) ∧
    answer .rdfld State.reset = (0x00#8, 0#32) := by decide +kernel
/-- R81. -/
theorem test_mnew : (after (.mnew .m3 1 3 0#8) State.reset).m3 = some { rows := 1, cols := 3, e := [0#8, 0#8, 0#8] } ∧
    answer (.mnew .m3 257 1 0#8) State.reset = (0x0D#8, 0#32) := by decide +kernel
/-- R82. -/
theorem test_mident : (after (.mident .m0 3) State.reset).m0 =
      some { rows := 3, cols := 3, e := [1#8, 0#8, 0#8, 0#8, 1#8, 0#8, 0#8, 0#8, 1#8] } ∧
    answer (.mident .m0 0) State.reset = (0x03#8, 0#32) := by decide +kernel
/-- R83. -/
theorem test_mcolv : (after (.mcolv .m1) { State.reset with din := [0x11#8, 0x22#8, 0x33#8] }).m1 =
    some { rows := 3, cols := 1, e := [0x11#8, 0x22#8, 0x33#8] } := by decide +kernel
/-- R84. -/
theorem test_mcauchy : (after (.mcauchy .m1 2 5) (inField gf8)).m1 = some cauchy25 ∧
    answer (.mcauchy .m1 2 6) (inField gf8) = (0x0B#8, 0#32) := by decide +kernel
/-- R84: the order of its errors. -/
theorem test_mcauchy_errors : answer (.mcauchy .m1 256 0) (inField gf8) = (0x04#8, 0#32) ∧
    answer (.mcauchy .m1 9 0) (inField gf8) = (0x05#8, 0#32) ∧
    answer (.mcauchy .m1 256 0) State.reset = (0x09#8, 0#32) := by decide +kernel
/-- R85: the top's rows come first; one register may be all three (R80). -/
theorem test_mappend : (after (.mappend .m2 .m0 .m1) { State.reset with m0 := some one11, m1 := some two11 }).m2 =
      some { rows := 2, cols := 1, e := [5#8, 6#8] } ∧
    (after (.mappend .m0 .m0 .m0) { State.reset with m0 := some one11 }).m0 =
      some { rows := 2, cols := 1, e := [5#8, 5#8] } := by decide +kernel
/-- R86 with R78's example. -/
theorem test_mmulf :
    (after (.mmulf .m0 .m2 .m3) { inField coderField with m2 := some parity23, m3 := some data13 }).m0 =
      some { rows := 2, cols := 1, e := [0x49#8, 0x7C#8] } := by decide +kernel
/-- R87. -/
theorem test_mtovec : answer (.mtovec .m1) { State.reset with m1 := some cauchy25 } = (0x00#8, 10#32) ∧
    (after (.mtovec .m1) { State.reset with m1 := some cauchy25 }).dout = cauchy25.e := by decide +kernel
/-- R88. -/
theorem test_mrd : answer (.mrd .m1 1 3) { State.reset with m1 := some cauchy25 } = (0x00#8, 7#32) ∧
    answer (.mrd .m1 2 0) { State.reset with m1 := some cauchy25 } = (0x0E#8, 0#32) := by decide +kernel
/-- R89. -/
theorem test_mwr :
    (after (.mwr .m3 0 1 0x22#8) { State.reset with m3 := some { rows := 1, cols := 3, e := [0#8, 0#8, 0#8] } }).m3 =
      some { rows := 1, cols := 3, e := [0#8, 0x22#8, 0#8] } ∧
    answer (.mwr .m3 0 0 1#8) State.reset = (0x0C#8, 0#32) := by decide +kernel
/-- R90. -/
theorem test_mdim : answer (.mdim .m1) { State.reset with m1 := some cauchy25 } = (0x00#8, 0x00020005#32) := by
  decide +kernel
/-- R113. -/
theorem test_dclr : (after .dclr { State.reset with din := [0x10#8] }).din = [] := by decide
/-- R114; the 257th byte is refused. -/
theorem test_dpush : answer (.dpush 0x10#8) State.reset = (0x00#8, 1#32) ∧
    answer (.dpush 0x10#8) { State.reset with din := List.replicate 256 0#8 } = (0x0D#8, 0#32) := by decide +kernel
/-- R115, R116: the last two bytes of R102's codeword. -/
theorem test_rdout : answer (.rdout 1) { State.reset with dout := [0xF9#8, 0x84#8] } = (0x00#8, 0x84#32) ∧
    answer (.rdout 2) { State.reset with dout := [0xF9#8, 0x84#8] } = (0x0E#8, 0#32) := by decide
theorem test_rdolen : answer .rdolen { State.reset with dout := [0xF9#8, 0x84#8] } = (0x00#8, 2#32) := by decide
/-- R101: the answer, the last two rows of the generator, and the errors in their order. -/
theorem test_rsnew : answer (.rsnew 10 2) State.reset = (0x00#8, 12#32) ∧
    ((after (.rsnew 10 2) State.reset).coder.map (fun C => C.g.drop 100)) =
      some [0x8E#8, 0xA7#8, 0x47#8, 0xBA#8, 0x7A#8, 0x9D#8, 0xAD#8, 0x98#8, 0xDD#8, 0xAA#8,
        0x01#8, 0x7A#8, 0xBA#8, 0x47#8, 0xA7#8, 0xDD#8, 0x98#8, 0xAD#8, 0x9D#8, 0x5D#8] := by decide +kernel
theorem test_rsnew_errors : answer (.rsnew 0 300) State.reset = (0x03#8, 0#32) ∧
    answer (.rsnew 300 2) State.reset = (0x04#8, 0#32) ∧ answer (.rsnew 200 100) State.reset = (0x05#8, 0#32) ∧
    answer (.rsnew 128 128) State.reset = (0x0B#8, 0#32) := by decide +kernel
/-- R102, R99: the data comes first; `0xF4 · 1 xor 0x8E · 2 = 0xF4 xor 1`. -/
theorem test_rsenc : answer .rsenc (withCoder [1#8, 2#8]) = (0x00#8, 3#32) ∧
    (after .rsenc (withCoder [1#8, 2#8])).dout = [1#8, 2#8, 0xF5#8] := by decide +kernel
theorem test_rsenc_errors : answer .rsenc State.reset = (0x0A#8, 0#32) ∧
    answer .rsenc (withCoder [1#8]) = (0x06#8, 0#32) := by decide +kernel
/-- R103. -/
theorem test_rsrdg : answer (.rsrdg 2 1) (withCoder []) = (0x00#8, 0x8E#32) ∧
    answer (.rsrdg 3 0) (withCoder []) = (0x0E#8, 0#32) := by decide +kernel
/-- R104. -/
theorem test_rsdim : answer .rsdim (withCoder []) = (0x00#8, 0x00020001#32) := by decide +kernel

/-! ## Steps -/

/-- An illegal word comes before every other test (R124; last line of section 2.8). -/
theorem test_illegal_step : stepped (State.reset.offer 0x14000001005300CA#64) =
    some { State.reset with status := 0x0F#8, rspValid := true } := by decide +kernel

/-- Reset by `rst_n` between commands (R141). -/
theorem test_hard_reset : stepped { withCoder [1#8] with host := [.reset] } = some State.reset := by decide +kernel

/-! ## The notation of R40 -/

theorem test_assemble : assemble ("FIELD 3, 0x0B # the field\n\nDLOAD 1, 0x10".toList) =
    some [0x1000000B00030000#64, 0x3000000000000000#64, 0x3100000100000000#64, 0x3100001000000000#64] := by
  decide +kernel

theorem test_assemble_refuses : assemble ("DPUSH 256".toList) = none ∧ assemble ("MTOVEC 1".toList) = none := by
  decide +kernel

/-! ## Witnesses: states and operands that meet the hypotheses of the statements, clause by clause -/

theorem gf8_inv : gf8.Inv where
  order := by decide
  sizes := by decide
  powerEnds := by decide
  logOne := by decide
  powerRange := by decide
  powerDistinct := by
    have h : ∀ i < 8, ∀ j < 8, 1 ≤ i → 1 ≤ j → gf8.powerAt i = gf8.powerAt j → i = j := by decide
    exact fun i j h1 h2 h3 h4 => h i h2 j h4 h1 h3
  powerOnto := by
    have h : ∀ e < 8, 1 ≤ e → ∃ i, i < 8 ∧ 1 ≤ i ∧ (gf8.powerAt i).toNat = e := by decide
    exact fun e h1 h2 => let ⟨i, hi, h3, h4⟩ := h e h2 h1; ⟨i, h3, hi, h4⟩
  logOfPower := by
    have h : ∀ i < 7, 1 ≤ i → (gf8.logAt (gf8.powerAt i).toNat).toNat = i := by decide
    exact fun i h1 h2 => h i (Nat.lt_succ_of_le h2) h1
  powerOfLog := by
    have h : ∀ e < 8, 1 ≤ e → (gf8.powerAt (gf8.logAt e).toNat).toNat = e ∧ (gf8.logAt e).toNat ≤ 6 := by decide
    exact fun e h1 h2 => h e h2 h1
  constructed := by decide +kernel

theorem coder21_inv : coder21.Inv := ⟨by decide, by decide +kernel⟩

/-- A state that meets the invariant with a field, an encoder, a matrix and both buffers in use. -/
def busy : State :=
  { inField gf8 with coder := some coder21, m1 := some cauchy25, din := [1#8, 2#8], dout := [3#8], result := 7#32 }

theorem busy_inv : busy.Inv where
  memory := by
    refine ⟨?_, ?_, ?_, ?_, ?_, ?_, by decide, by decide⟩
    · rintro _ ⟨⟩; decide
    · rintro _ ⟨⟩; decide
    · rintro _ ⟨⟩
    · rintro _ ⟨⟩; decide
    · rintro _ ⟨⟩
    · rintro _ ⟨⟩
  field := by rintro _ ⟨⟩; exact gf8_inv
  coder := by rintro _ ⟨⟩; exact coder21_inv
  statusCode := by decide
  errorResult := fun h => absurd rfl h

theorem witness_DecodeInvertsEncode : (Instr.mnew .m3 65535 0 0xFF#8).wf = true := by decide
theorem witness_PrintedCommandsReadBack : (Instr.mwr .m3 65535 0 0xFF#8).wf = true := by decide
theorem witness_EncodeInvertsDecode : decode 0x20C000FFFFFF0000#64 = some (.mnew .m3 65535 0 0xFF#8) := by
  decide +kernel
theorem witness_OfferedCommandIsExecuted : decode 0x1700000000000000#64 = some .mingen := by decide +kernel

theorem witness_IllegalWords_opcode : ∀ m : Mnemonic, m.op ≠ opField 0x4400000000000000#64 := by
  intro m; cases m <;> decide
theorem witness_IllegalWords_zero : zeroField 0x0000010000000000#64 ≠ 0#10 ∧ zeroField 0x0002000000000000#64 ≠ 0#10 := by
  decide
theorem witness_IllegalWords_unused :
    (Mnemonic.GFMULT.op = opField 0x14400000005300CA#64 ∧ Mnemonic.GFMULT.uses.md = false ∧
      mdField 0x14400000005300CA#64 ≠ 0#2) ∧
    (Mnemonic.GFMULT.op = opField 0x14100000005300CA#64 ∧ Mnemonic.GFMULT.uses.ma = false ∧
      maField 0x14100000005300CA#64 ≠ 0#2) ∧
    (Mnemonic.MIDENT.op = opField 0x2104000000030000#64 ∧ Mnemonic.MIDENT.uses.mb = false ∧
      mbField 0x2104000000030000#64 ≠ 0#2) ∧
    (Mnemonic.GFMULT.op = opField 0x14000001005300CA#64 ∧ Mnemonic.GFMULT.uses.c = false ∧
      cField 0x14000001005300CA#64 ≠ 0#8) ∧
    (Mnemonic.RESET.op = opField 0x0100000000010000#64 ∧ Mnemonic.RESET.uses.a = false ∧
      aField 0x0100000000010000#64 ≠ 0#16) ∧
    (Mnemonic.RSENC.op = opField 0x4100000000000001#64 ∧ Mnemonic.RSENC.uses.b = false ∧
      bField 0x4100000000000001#64 ≠ 0#16) := by decide

theorem witness_OneResponsePerCommandInOrder :
    (0 < ([0x1700000000000000#64] : List Word).length) ∧
    runResponses 1 (State.reset.withProgram [0x1700000000000000#64]) = [(0x09#8, 0#32)] := by decide +kernel

/-- Orders 0 and 9; order 2 with a reducible polynomial byte; order 2 with `x^2 + x + 1`; order 4 with `0x1F`, whose
smallest generator is 3. -/
theorem witness_FieldConstructs_order : (0 < 1 ∨ 8 < 0) ∧ (9 < 1 ∨ 8 < 9) := by decide
theorem witness_FieldConstructs_none :
    ∀ g, 2 ≤ g → g ≤ 2 ^ 2 - 1 → isGenerator 2 0x05#8 (BitVec.ofNat 8 g) = false := by
  intro g h1 h2; interval_cases g <;> decide
theorem witness_FieldConstructs_smallest :
    isGenerator 2 0x07#8 (BitVec.ofNat 8 2) = true ∧
    ∀ h, 2 ≤ h → h < 2 → isGenerator 2 0x07#8 (BitVec.ofNat 8 h) = false :=
  ⟨by decide, fun h h1 h2 => absurd h1 (by omega)⟩
theorem witness_FieldConstructs_third :
    isGenerator 4 0x1F#8 (BitVec.ofNat 8 3) = true ∧
    ∀ h, 2 ≤ h → h < 3 → isGenerator 4 0x1F#8 (BitVec.ofNat 8 h) = false := by
  refine ⟨by decide +kernel, fun h h1 h2 => ?_⟩
  obtain rfl : h = 2 := by omega
  decide +kernel

theorem witness_FieldConstructs_coderField : constructField 8 0x1D#8 = .ok (coderField, 2#8) := coderField_constructed

theorem witness_fieldInv : busy.Inv ∧ busy.field = some gf8 ∧ gf8.Inv ∧ gf8.w ≤ 8 := ⟨busy_inv, rfl, gf8_inv, by decide⟩
theorem witness_FieldAndOperandTests :
    ((Instr.mmulf .m0 .m1 .m2).needsField = true ∧ State.reset.field = none) ∧
    ((inField gf8).field = some gf8 ∧ 8 ∈ (Instr.gfdivt 0 8).elements ∧ 2 ^ gf8.w ≤ 8) := by decide
theorem witness_DoublingShiftsAndReduces :
    (1 ≤ 8 ∧ (8 = 8 ∨ (0x1D#8).toNat >>> 8 = 1) ∧ (0xFF#8).toNat < 2 ^ 8) ∧
    (1 ≤ 1 ∧ 1 ≤ 8 ∧ (1 = 8 ∨ (0x03#8).toNat >>> 1 = 1) ∧ (1#8).toNat < 2 ^ 1) := by decide
theorem witness_arithmetic : (∀ F, (inField gf8).field = some F → F.w ≤ 8) ∧ (inField gf8).field = some gf8 ∧
    7 < 2 ^ gf8.w := ⟨by rintro _ ⟨⟩; decide, rfl, by decide⟩
/-- The candidate 2 of GF(2^3, 0x0B) qualifies; 0 and 1 do not. -/
theorem witness_Isgen_yes :
    let power := fun k => (fun v => gfMulDirect gf8.w gf8.poly v (BitVec.ofNat 8 2))^[k] (BitVec.ofNat 8 2)
    ∀ k < 2 ^ gf8.w - 1, power k ≠ 0#8 ∧ (power k).toNat < 2 ^ gf8.w ∧ ∀ j < k, power j ≠ power k := by decide +kernel
theorem witness_Isgen_no : ∀ cand < 2,
    let power := fun k => (fun v => gfMulDirect gf8.w gf8.poly v (BitVec.ofNat 8 cand))^[k] (BitVec.ofNat 8 cand)
    ¬∀ k < 2 ^ gf8.w - 1, power k ≠ 0#8 ∧ (power k).toNat < 2 ^ gf8.w ∧ ∀ j < k, power j ≠ power k := by
  decide +kernel
theorem witness_Mingen : 2 ≤ 2 ∧ 2 < 2 ^ gf8.w ∧ isGenerator gf8.w gf8.poly (BitVec.ofNat 8 2) = true ∧
    ∀ h, 2 ≤ h → h < 2 → isGenerator gf8.w gf8.poly (BitVec.ofNat 8 h) = false :=
  ⟨by decide, by decide, by decide +kernel, fun h h1 h2 => absurd h1 (by omega)⟩
theorem witness_ConstructedTables : constructField 3 0x0B#8 = .ok (gf8, 2#8) := gf8_inv.constructed
theorem witness_Sixtynine : findGenerator 4 0x1F#8 = .ok 3#8 ∧ findGenerator 2 0x07#8 = .ok 2#8 ∧
    findGenerator 1 0x03#8 = .error .noGeneratorFound := by decide +kernel
theorem witness_FieldArithmeticLaws : (0#8).toNat < 2 ^ gf8.w ∧ (7#8).toNat < 2 ^ gf8.w ∧ (7#8 : Byte) ≠ 0#8 := by
  decide

theorem witness_Missing_field :
    MReg.m1 ∈ (Instr.mmulf .m2 .m0 .m1).needsMats ∧ (inField gf8).mat .m1 = none ∧ (inField gf8).field ≠ none := by
  decide
theorem witness_Missing_plain :
    MReg.m3 ∈ (Instr.mwr .m3 0 0 0#8).needsMats ∧ State.reset.mat .m3 = none ∧
    (Instr.mwr .m3 0 0 0#8).needsField = false ∧ Instr.rsenc.needsCoder = true ∧ State.reset.coder = none := by decide

/-- A field (order 3, eight elements), and the boundary sizes of each clause of the Cauchy statement. -/
theorem witness_Cauchy :
    (inField gf8).field = some gf8 ∧ State.reset.field = none ∧ 255 < 256 ∧
    (9 ≤ 255 ∧ 2 ^ gf8.w < 9 + 0) ∧ (1 ≤ 7 ∧ 1 + 7 = 2 ^ gf8.w) ∧
    (0 + 8 ≤ 2 ^ gf8.w ∧ (0 = 0 ∨ 8 = 0 ∨ 0 + 8 ≠ 2 ^ gf8.w)) ∧
    (1 + 6 ≤ 2 ^ gf8.w ∧ 1 + 6 ≠ 2 ^ gf8.w) := by decide
theorem witness_CauchySubmatrices : gf8.Inv ∧ matCauchy gf8 2 5 = .ok cauchy25 ∧
    ([0, 1] : List Nat).Nodup ∧ ([4, 0] : List Nat).Nodup ∧ (∀ r ∈ ([0, 1] : List Nat), r < 2) ∧
    (∀ c ∈ ([4, 0] : List Nat), c < 5) ∧ (∀ v ∈ ([0#8, 0#8] : List Byte), v.toNat < 2 ^ gf8.w) ∧
    ∀ r ∈ ([0, 1] : List Nat),
      (List.zipWith (fun c v => gfMulTable gf8 (cauchy25.at r c) v) [4, 0] [0#8, 0#8]).foldl gfAdd 0#8 = 0#8 :=
  ⟨gf8_inv, by decide +kernel, by decide, by decide, by decide, by decide, by decide, by decide +kernel⟩

/-- 256 rows without columns, and one more. -/
def tall : Mat := { rows := 256, cols := 0, e := [] }
def flat : Mat := { rows := 1, cols := 0, e := [] }
theorem witness_Append :
    State.reset.mat .m0 = none ∧ one11.wf ∧ two11.wf ∧ one11.cols = two11.cols ∧ one11.rows + two11.rows ≤ 256 ∧ one11.cols ≠ flat.cols ∧
    tall.cols = flat.cols ∧ 256 < tall.rows + flat.rows := by decide
theorem witness_MatrixProduct :
    (inField gf8).field ≠ none ∧ (inField gf8).mat .m0 = none ∧ parity23.cols = data13.cols ∧ (∀ v ∈ parity23.e ++ data13.e, v.toNat < 2 ^ coderField.w) ∧
    (∃ v ∈ parity23.e ++ data13.e, 2 ^ gf8.w ≤ v.toNat) ∧ one11.cols ≠ data13.cols := by decide
theorem witness_matrices :
    cauchy25.wf ∧ 1 < cauchy25.rows ∧ 4 < cauchy25.cols ∧ (2 ≥ cauchy25.rows ∨ cauchy25.cols ≤ 0) ∧
    ((0 : Nat) ≠ 1 ∨ (4 : Nat) ≠ 4) ∧ (MReg.m0 ≠ MReg.m1) ∧
    (∀ A, busy.mat .m1 = some A → A.rows ≤ 256 ∧ A.cols ≤ 256) :=
  ⟨by decide, by decide, by decide, by decide, by decide, by decide, by rintro _ ⟨⟩; decide⟩

/-- The boundary counts of each clause of the encoder's construction. -/
theorem witness_Encoder :
    (255 < 256 ∧ 1 ≤ 1) ∧ (1 ≤ 2 ∧ 2 ≤ 255 ∧ 255 ≤ 255 ∧ 256 < 2 + 255) ∧ (1 ≤ 255 ∧ 1 ≤ 1 ∧ 255 + 1 = 256) ∧
    (1 ≤ 255 ∧ 255 + 0 ≤ 255) ∧ (1 ≤ 1 ∧ 1 + 254 ≤ 255) := by decide
theorem witness_Encode :
    (withCoder [1#8, 2#8]).coder = some coder21 ∧ coder21.Inv ∧ (withCoder [1#8, 2#8]).din.length = coder21.dataNum ∧
    (withCoder [1#8]).din.length ≠ coder21.dataNum ∧ State.reset.coder = none :=
  ⟨rfl, coder21_inv, by decide, by decide, rfl⟩
theorem witness_EncodingIsLinear : rsEncode coder21 [1#8, 2#8] = .ok [1#8, 2#8, 0xF5#8] := by decide +kernel
theorem witness_AnyDataNum : rsNew 2 1 = .ok coder21 ∧ rsEncode coder21 [1#8, 2#8] = .ok [1#8, 2#8, 0xF5#8] ∧
    ([2, 1] : List Nat).Nodup ∧ ([2, 1] : List Nat).length = 2 ∧ (∀ r ∈ ([2, 1] : List Nat), r < 2 + 1) ∧
    (∀ r ∈ ([2, 1] : List Nat), ([1#8, 2#8, 0xF5#8] : List Byte)[r]? = [1#8, 2#8, 0xF5#8][r]?) :=
  ⟨by decide +kernel, by decide +kernel, by decide, by decide, by decide, by decide⟩
theorem witness_EncoderReads : ∀ C, busy.coder = some C → C.dataNum ≤ 255 ∧ C.parityNum ≤ 255 := by
  rintro _ ⟨⟩; decide

/-- A step with an effect from a state that meets the invariant; a command that ends with an error. -/
theorem witness_StepKeepsTheInvariant : busy.Inv ∧ (stepped (busy.offer 0x4100000000000000#64)).isSome = true :=
  ⟨busy_inv, by decide +kernel⟩
theorem witness_ErrorsWriteNothingElse :
    exec (.mident .m0 0) busy = .next (raise .zeroSizeMatrix busy) ∧ (raise .zeroSizeMatrix busy).status ≠ 0x00#8 :=
  ⟨rfl, by decide⟩
theorem exec_answers (i : Instr) (s : State) : ∃ t, exec i s = .next t := by
  cases i <;> first | exact complete_answers s _ | exact ⟨_, rfl⟩
theorem witness_execAnswers : (∃ t, exec .rsenc busy = .next t) ∧ Instr.rsenc ≠ .reset ∧
    Instr.rsenc.matWritten ≠ some .m0 ∧ (∃ t, exec (.field 3 0x0D#8) busy = .next t) :=
  ⟨exec_answers _ _, by decide, by decide, exec_answers _ _⟩

end Sys2Proof.Tests
end

section
/-!
PROOF. A successful construction of a field has the table invariants of R12: what the generator test gives, that 1 is a
left identity of the direct multiplication, and what the writes of the tables leave in their cells.
-/

namespace Sys2Proof.Machine

/-! ## Multiplying by one (R44) -/

/-- Once no bit of the multiplier is left, the sum is complete. -/
theorem mulDirectLoop_of_no_bits (w : Nat) (P y : Byte) (k i : Nat) (p acc : Byte)
    (h : ∀ j, i ≤ j → y.getLsbD j = false) : mulDirectLoop w P y k i p acc = acc := by
  induction k generalizing i p with
  | zero => rfl
  | succ k ih =>
    simp only [mulDirectLoop, h i le_rfl, Bool.false_eq_true, if_false]
    exact ih (i + 1) _ fun j hj => h j (by omega)

/-- Below the top bit of the field, doubling a power of two only shifts it (R43). -/
theorem gfDbl_twoPow {w i : Nat} (P : Byte) (hw : w ≤ 8) (hi : i + 1 < w) :
    gfDbl w P (BitVec.twoPow 8 i) = BitVec.twoPow 8 (i + 1) := by
  have top_clear : ∀ w ≤ 8, ∀ i < 8, i + 1 < w →
      BitVec.twoPow 8 i &&& overflowFlag w = 0#8 ∧ BitVec.twoPow 8 i <<< 1 = BitVec.twoPow 8 (i + 1) := by decide
  obtain ⟨hclear, hshift⟩ := top_clear w hw i (by omega) hi
  simp [gfDbl, hclear, hshift]

/-- The bits of `y` from `i` upward are bit `i` and the bits above it. -/
theorem bitsFrom_succ (y : Byte) (i : Nat) :
    y >>> i <<< i = (if y.getLsbD i then BitVec.twoPow 8 i else 0#8) ^^^ (y >>> (i + 1) <<< (i + 1)) := by
  ext j hj
  rcases lt_trichotomy j i with h | rfl | h
  · cases y.getLsbD i <;> simp [h, h.le, h.ne]
  · cases hb : y.getLsbD j <;> simp [hb]
  · have hlow : i + (j - i) = j ∧ i + 1 + (j - (i + 1)) = j := by omega
    cases y.getLsbD i <;> simp [hlow, h.ne', h.not_ge, h.not_gt]

/-- With the doubled value still a plain power of two, the loop adds up the bits of `y` from `i` upward. -/
theorem mulDirectLoop_twoPow {w : Nat} {P y : Byte} (hw : w ≤ 8) (hy : y.toNat < 2 ^ w) (k i : Nat) (acc : Byte)
    (hi : i < w) (hk : w ≤ i + k) :
    mulDirectLoop w P y k i (BitVec.twoPow 8 i) acc = acc ^^^ (y >>> i <<< i) := by
  induction k generalizing i acc with
  | zero => omega
  | succ k ih =>
    have hsum : (if y.getLsbD i then acc ^^^ BitVec.twoPow 8 i else acc) ^^^ (y >>> (i + 1) <<< (i + 1)) =
        acc ^^^ (y >>> i <<< i) := by
      rw [bitsFrom_succ y i, ← BitVec.xor_assoc]
      split <;> simp
    rw [mulDirectLoop, ← hsum]
    by_cases hlast : i + 1 < w
    · rw [gfDbl_twoPow P hw hlast, ih (i + 1) _ hlast (by omega)]
    · have hnone : ∀ j, i + 1 ≤ j → y.getLsbD j = false := fun j hj =>
        by
        rw [BitVec.getLsbD]; exact Nat.testBit_lt_two_pow (hy.trans_le (Nat.pow_le_pow_right (by decide) (by omega)))
      have hzero : y >>> (i + 1) = 0#8 := by
        ext j hj; simpa using hnone (i + 1 + j) (by omega)
      rw [mulDirectLoop_of_no_bits w P y k (i + 1) _ _ hnone, hzero]
      simp

/-- `1 · y = y` for every element (R44). -/
theorem gfMulDirect_one_left {w : Nat} (P : Byte) {y : Byte} (hw : w ≤ 8) (hpos : 0 < w) (hy : y.toNat < elementCount w) :
    gfMulDirect w P 1#8 y = y := by
  have h := mulDirectLoop_twoPow (P := P) hw hy 8 0 0#8 hpos (by omega)
  simpa [gfMulDirect, BitVec.twoPow] using h

/-! ## What the generator test gives (R45) -/

/-- The walk succeeds exactly when its powers are nonzero elements, pairwise different, and none was met before. -/
theorem generatorWalk_iff {w : Nat} {P c : Byte} {k : Nat} {v : Byte} {seen : List Byte} :
    generatorWalk w P c k v seen = true ↔
      (powersFrom w P c k v).Nodup ∧
        ∀ x ∈ powersFrom w P c k v, x ≠ 0#8 ∧ x.toNat < elementCount w ∧ x ∉ seen := by
  induction k generalizing v seen with
  | zero => simp [generatorWalk, powersFrom]
  | succ k ih =>
    simp only [generatorWalk, powersFrom, List.nodup_cons, List.forall_mem_cons]
    split
    · rename_i hbad
      simp only [Bool.false_eq_true, false_iff]
      rintro ⟨-, ⟨h0, hlt, hnew⟩, -⟩
      rcases hbad with h | h | h
      · exact h0 h
      · omega
      · exact hnew h
    · rename_i hgood
      simp only [not_or, not_le] at hgood
      have hfresh : v ∉ powersFrom w P c k (gfMulDirect w P v c) ↔
          ∀ x ∈ powersFrom w P c k (gfMulDirect w P v c), x ≠ v :=
        ⟨fun hv x hx hxv => hv (hxv ▸ hx), fun hall hv => hall v hv rfl⟩
      rw [ih, hfresh]
      simp only [List.mem_cons, not_or, hgood, forall_and]
      tauto

/-- The powers `c^1 .. c^(n-1)` of a candidate, in order (R45). -/
def powersOf (w : Nat) (P c : Byte) : List Byte := powersFrom w P c (elementCount w - 1) c

theorem isGenerator_iff {w : Nat} {P c : Byte} :
    isGenerator w P c = true ↔
      (powersOf w P c).Nodup ∧ ∀ x ∈ powersOf w P c, x ≠ 0#8 ∧ x.toNat < elementCount w := by
  simp [isGenerator, generatorWalk_iff, powersOf]

@[simp] theorem powersOf_length (w : Nat) (P c : Byte) : (powersOf w P c).length = elementCount w - 1 :=
  powersFrom_length ..

/-- What the search leaves of its result (R46, R54): an element that passes the test, in a field of order at least 2. -/
structure Generates (w : Nat) (P g : Byte) : Prop where
  order : 2 ≤ w ∧ w ≤ 8
  range : g.toNat < elementCount w
  test : isGenerator w P g = true

theorem generates_of_findGenerator {w : Nat} {P g : Byte} (hw : w ≤ 8) (h : findGenerator w P = .ok g) :
    Generates w P g := by
  have hfind := findGenerator_ok.1 h
  obtain ⟨hge, hlt⟩ := (mem_candidates hw g).1 (List.mem_of_find?_eq_some hfind)
  refine ⟨⟨?_, hw⟩, hlt, List.find?_some hfind⟩
  by_contra hsmall
  have : elementCount w ≤ 2 ^ 1 := Nat.pow_le_pow_right (by decide) (by omega)
  omega

/-- Every nonzero element is a power of a generator: `n - 1` different values among `n - 1` (R12). -/
theorem mem_powersOf {w : Nat} {P g e : Byte} (hgen : isGenerator w P g = true) (h0 : e ≠ 0#8)
    (he : e.toNat < elementCount w) : e ∈ powersOf w P g := by
  obtain ⟨hnodup, hrange⟩ := isGenerator_iff.1 hgen
  have mem_units : ∀ x : Byte, x ≠ 0#8 → x.toNat < elementCount w →
      x.toNat ∈ List.range' 1 (elementCount w - 1) := fun x hx0 hxlt => by
    have : x.toNat ≠ 0 := BitVec.toNat_ne_iff_ne.2 hx0
    rw [List.mem_range'_1]; omega
  have hsub : (powersOf w P g).map BitVec.toNat ⊆ List.range' 1 (elementCount w - 1) :=
    List.forall_mem_map.2 fun x hx => mem_units x (hrange x hx).1 (hrange x hx).2
  have hinj : Function.Injective (BitVec.toNat : Byte → Nat) := fun _ _ => BitVec.eq_of_toNat_eq
  have hperm := (List.subperm_of_subset (hnodup.map hinj) hsub).perm_of_length_le (by simp)
  exact (List.mem_map_of_injective hinj).1 (hperm.mem_iff.2 (mem_units e h0 he))

/-! ## The table of logarithms (R47) -/

/-- The cell of another element is left as it was. -/
theorem setLog_getD_ne {log : List Byte} {e d : Byte} (i : Nat) (hd : d ≠ 0#8) (h : d ≠ e) :
    (setLog log e i).getD (d.toNat - 1) 0#8 = log.getD (d.toNat - 1) 0#8 := by
  unfold setLog
  split
  · rfl
  · rename_i he
    have hne : d.toNat ≠ e.toNat := BitVec.toNat_ne_iff_ne.2 h
    have hd0 : d.toNat ≠ 0 := BitVec.toNat_ne_iff_ne.2 hd
    have he0 : e.toNat ≠ 0 := BitVec.toNat_ne_iff_ne.2 he
    simp only [List.getD_eq_getElem?_getD]
    rw [List.getElem?_set_ne (by omega)]

/-- The cell of the element written holds the exponent. -/
theorem setLog_getD_self {log : List Byte} {e : Byte} (i : Nat) (he : e ≠ 0#8) (h : e.toNat ≤ log.length) :
    (setLog log e i).getD (e.toNat - 1) 0#8 = BitVec.ofNat 8 i := by
  have he0 : e.toNat ≠ 0 := BitVec.toNat_ne_iff_ne.2 he
  have hlt : e.toNat - 1 < log.length := by omega
  simp [setLog, he, List.getD_eq_getElem?_getD, hlt]

/-- An element that is not among the entries keeps its cell. -/
theorem writeLogs_getD_of_notMem {ps : List Byte} {d : Byte} (i : Nat) (log : List Byte) (hd : d ≠ 0#8)
    (h : d ∉ ps) :
    (writeLogs ps i log).getD (d.toNat - 1) 0#8 = log.getD (d.toNat - 1) 0#8 := by
  induction ps generalizing i log with
  | nil => rfl
  | cons p ps ih =>
    rw [List.mem_cons, not_or] at h
    rw [writeLogs, ih (i + 1) _ h.2, setLog_getD_ne i hd h.1]

/-- Of different entries, the `j`th has `j` more than the first exponent in its cell. -/
theorem writeLogs_getD {ps : List Byte} (i : Nat) (log : List Byte) (hnodup : ps.Nodup)
    (hps : ∀ x ∈ ps, x ≠ 0#8 ∧ x.toNat ≤ log.length) (j : Nat) (hj : j < ps.length) :
    (writeLogs ps i log).getD (ps[j].toNat - 1) 0#8 = BitVec.ofNat 8 (i + j) := by
  induction ps generalizing i log j with
  | nil => simp at hj
  | cons p ps ih =>
    obtain ⟨hp, hnodup⟩ := List.nodup_cons.1 hnodup
    rw [List.forall_mem_cons] at hps
    obtain ⟨⟨hp0, hplen⟩, hps⟩ := hps
    rw [writeLogs]
    cases j with
    | zero =>
      rw [List.getElem_cons_zero, writeLogs_getD_of_notMem _ _ hp0 hp, setLog_getD_self i hp0 hplen, Nat.add_zero]
    | succ j =>
      rw [List.getElem_cons_succ, ih (i + 1) _ hnodup (by simpa using hps) j (by simpa using hj)]
      congr 1; omega

/-! ## The tables of a constructed field (R12) -/

theorem four_le_elementCount {w : Nat} (hw : 2 ≤ w) : 4 ≤ elementCount w :=
  Nat.pow_le_pow_right (n := 2) (by decide) hw

/-- A number below `element_count` fits a byte. -/
theorem toNat_ofNat_element {w e : Nat} (hw : w ≤ 8) (he : e < elementCount w) : (BitVec.ofNat 8 e).toNat = e := by
  have := elementCount_le hw
  rw [BitVec.toNat_ofNat]; omega

@[simp] theorem buildTables_powerAt_zero (w : Nat) (P g : Byte) : (buildTables w P g).powerAt 0 = 1#8 := by
  obtain ⟨k, hk⟩ := Nat.exists_eq_add_one.2 (elementCount_pos w)
  simp [FieldCtx.powerAt, powerTable, hk, powersFrom]

/-- Each entry of `POWER` is the one before times the generator (R47). -/
theorem buildTables_powerAt_succ (w : Nat) (P g : Byte) {i : Nat} (h : i + 1 < elementCount w) :
    (buildTables w P g).powerAt (i + 1) = gfMulDirect w P ((buildTables w P g).powerAt i) g :=
  powersFrom_getD_succ w P g (elementCount w) 1#8 i h

section Constructed

variable {w : Nat} {P g : Byte} (h : Generates w P g)
include h

/-- `POWER` is 1 and then the powers of the generator. -/
theorem powerTable_eq : powerTable w P g = 1#8 :: powersOf w P g := by
  obtain ⟨⟨h2, h8⟩, hg, -⟩ := h
  obtain ⟨k, hk⟩ := Nat.exists_eq_add_one.2 (elementCount_pos w)
  simp [powerTable, powersOf, hk, powersFrom, gfMulDirect_one_left P h8 (by omega) hg]

theorem powerAt_eq_getElem {i : Nat} (h1 : 1 ≤ i) (hi : i < elementCount w) :
    (buildTables w P g).powerAt i = (powersOf w P g)[i - 1]'(by simp; omega) := by
  obtain ⟨i, rfl⟩ := Nat.exists_eq_add_one.2 h1
  rw [FieldCtx.powerAt, buildTables_power, powerTable_eq h, List.getD_cons_succ]
  exact List.getD_eq_getElem _ _ _

theorem powerAt_mem {i : Nat} (h1 : 1 ≤ i) (hi : i < elementCount w) :
    (buildTables w P g).powerAt i ∈ powersOf w P g :=
  powerAt_eq_getElem h h1 hi ▸ List.getElem_mem _

theorem powerAt_one : (buildTables w P g).powerAt 1 = g := by
  have := four_le_elementCount h.order.1
  rw [buildTables_powerAt_succ w P g (by omega), buildTables_powerAt_zero]
  exact gfMulDirect_one_left P h.order.2 (by have := h.order.1; omega) h.range

theorem powerAt_injective {i j : Nat} (hi1 : 1 ≤ i) (hi : i < elementCount w) (hj1 : 1 ≤ j)
    (hj : j < elementCount w)
    (heq : (buildTables w P g).powerAt i = (buildTables w P g).powerAt j) : i = j := by
  rw [powerAt_eq_getElem h hi1 hi, powerAt_eq_getElem h hj1 hj] at heq
  have := (isGenerator_iff.1 h.test).1.getElem_inj_iff.1 heq
  omega

/-- Every nonzero element stands in `POWER[1 .. n-1]`. -/
theorem exists_powerAt_eq {e : Nat} (h1 : 1 ≤ e) (he : e < elementCount w) :
    ∃ i, 1 ≤ i ∧ i < elementCount w ∧ (buildTables w P g).powerAt i = BitVec.ofNat 8 e := by
  have htoNat := toNat_ofNat_element h.order.2 he
  have hne : BitVec.ofNat 8 e ≠ 0#8 := fun h0 => by rw [h0, BitVec.toNat_ofNat] at htoNat; omega
  obtain ⟨j, hj, hje⟩ := List.getElem_of_mem (mem_powersOf h.test hne (by omega))
  rw [powersOf_length] at hj
  exact ⟨j + 1, by omega, by omega, hje ▸ powerAt_eq_getElem h (by omega) (by omega)⟩

/-- The last power of a generator is 1: an earlier 1 would be followed by the generator a second time. -/
theorem powerAt_last : (buildTables w P g).powerAt (elementCount w - 1) = 1#8 := by
  have h4 := four_le_elementCount h.order.1
  obtain ⟨i, h1, hi, hone⟩ := exists_powerAt_eq h (e := 1) le_rfl (by omega)
  by_cases hlast : i + 1 < elementCount w
  · have hagain : (buildTables w P g).powerAt (i + 1) = (buildTables w P g).powerAt (0 + 1) := by
      rw [buildTables_powerAt_succ w P g hlast, hone, buildTables_powerAt_succ w P g (by omega),
        buildTables_powerAt_zero]
    have := powerAt_injective h (by omega) hlast (by omega) (by omega) hagain
    omega
  · rwa [show elementCount w - 1 = i by omega]

theorem powerAt_ne_zero_lt {i : Nat} (hi : i < elementCount w) :
    (buildTables w P g).powerAt i ≠ 0#8 ∧ ((buildTables w P g).powerAt i).toNat < elementCount w := by
  rcases Nat.eq_zero_or_pos i with rfl | h1
  · have := four_le_elementCount h.order.1
    simp; omega
  · exact (isGenerator_iff.1 h.test).2 _ (powerAt_mem h h1 hi)

/-- `LOG[1] = 0`: it is the last write (R47). -/
theorem logAt_one : (buildTables w P g).logAt 1 = 0#8 := by
  have := four_le_elementCount h.order.1
  exact setLog_getD_self (e := 1#8) 0 (by decide) (by simp; omega)

/-- `LOG[POWER[i]] = i`: different powers have different cells, and only the last is written again. -/
theorem logAt_powerAt {i : Nat} (h1 : 1 ≤ i) (hi : i + 1 < elementCount w) :
    (buildTables w P g).logAt ((buildTables w P g).powerAt i).toNat = BitVec.ofNat 8 i := by
  obtain ⟨hnodup, hrange⟩ := isGenerator_iff.1 h.test
  obtain ⟨hne, -⟩ := powerAt_ne_zero_lt h (i := i) (by omega)
  have hne1 : (buildTables w P g).powerAt i ≠ 1#8 := fun heq => by
    have := powerAt_injective h h1 (by omega) (by omega) (by omega) (heq.trans (powerAt_last h).symm)
    omega
  rw [FieldCtx.logAt, buildTables_log, logTable, setLog_getD_ne 0 hne hne1, powerTable_eq h, List.drop_one,
    List.tail_cons, powerAt_eq_getElem h h1 (by omega), writeLogs_getD 1 _ hnodup]
  · congr 1; omega
  · intro x hx
    obtain ⟨hx0, hxlt⟩ := hrange x hx
    exact ⟨hx0, by simp; omega⟩

/-- `POWER[LOG[e]] = e` with `LOG[e]` at most `n - 2`; for 1 it is `POWER[0]`. -/
theorem powerAt_logAt {e : Nat} (h1 : 1 ≤ e) (he : e < elementCount w) :
    ((buildTables w P g).powerAt ((buildTables w P g).logAt e).toNat).toNat = e ∧
      ((buildTables w P g).logAt e).toNat ≤ elementCount w - 2 := by
  obtain ⟨i, hi1, hi, heq⟩ := exists_powerAt_eq h h1 he
  have htoNat := toNat_ofNat_element h.order.2 he
  by_cases hlast : i + 1 < elementCount w
  · have hlog : ((buildTables w P g).logAt e).toNat = i := by
      rw [← htoNat, ← heq, logAt_powerAt h hi1 hlast, toNat_ofNat_element h.order.2 hi]
    rw [hlog, heq]
    exact ⟨htoNat, by omega⟩
  · obtain rfl : e = 1 := by
      rw [show i = elementCount w - 1 by omega, powerAt_last h] at heq
      rw [← htoNat, ← heq]; rfl
    rw [logAt_one h]
    exact ⟨by simp, by simp⟩

/-- The tables built from a generator meet the invariants of R12. -/
theorem buildTables_inv (hfind : findGenerator w P = .ok g) : (buildTables w P g).Inv where
  order := h.order
  sizes := buildTables_wf w P g
  powerEnds := ⟨buildTables_powerAt_zero w P g, powerAt_last h⟩
  logOne := logAt_one h
  powerRange i hi := by
    obtain ⟨h0, hlt⟩ := powerAt_ne_zero_lt h hi
    have : ((buildTables w P g).powerAt i).toNat ≠ 0 := BitVec.toNat_ne_iff_ne.2 h0
    exact ⟨by omega, hlt⟩
  powerDistinct i j hi1 hi hj1 hj heq := powerAt_injective h hi1 hi hj1 hj heq
  powerOnto e h1 he := by
    obtain ⟨i, hi1, hi, heq⟩ := exists_powerAt_eq h h1 he
    exact ⟨i, hi1, hi, heq ▸ toNat_ofNat_element h.order.2 he⟩
  logOfPower i h1 hi := by
    rw [buildTables_count] at hi
    rw [logAt_powerAt h h1 (by omega), toNat_ofNat_element h.order.2 (by omega)]
  powerOfLog e h1 he := powerAt_logAt h h1 he
  constructed := by
    obtain ⟨h2, h8⟩ := h.order
    exact constructField_ok.2 ⟨by simp; omega, h8, by simpa [powerAt_one h] using hfind, by rw [powerAt_one h]; rfl⟩

end Constructed

/-- A successful construction meets the invariants of R12, with its generator at `POWER[1]`. -/
theorem constructField_inv {w : Nat} {P g : Byte} {F : FieldCtx} (h : constructField w P = .ok (F, g)) :
    F.Inv ∧ F.powerAt 1 = g := by
  obtain ⟨-, h8, hfind, rfl⟩ := constructField_ok.1 h
  have hgen := generates_of_findGenerator h8 hfind
  exact ⟨buildTables_inv hgen hfind, powerAt_one hgen⟩

/-- Settles O28: a candidate passes the generator test only if its powers are the nonzero elements, each once. -/
theorem constructedTablesAreInverse : Obligations.ConstructedTablesAreInverse :=
  fun _ _ _ _ h => constructField_inv h

end Sys2Proof.Machine
end

section
/-!
PROOF. What a command can write, said once (`exec_effect`), and what follows from it: which part of the state each
command can change (R13, R16, R18, R22), and that nothing it does depends on the last response (R21).
-/

namespace Sys2Proof.Machine

/-! ## The writes of a command that succeeds -/

/-- The commands that write nothing but their response. -/
def onlyAnswers : Instr → Bool
  | .nop | .gfadd _ _ | .gfsub _ _ | .gfmuld _ _ | .gfmult _ _ | .gfdivt _ _ | .isgen _ | .mingen => true
  | .rdpow _ | .rdlog _ | .rdfld | .mrd _ _ _ | .mdim _ | .rdout _ | .rdolen | .rsrdg _ _ | .rsdim => true
  | _ => false

/-- `Effect s i u`: when command `i` succeeds in `s`, it leaves `u` and a response. -/
inductive Effect (s : State) : Instr → State → Prop
  | answer {i : Instr} (h : onlyAnswers i = true) : Effect s i s
  | reset : Effect s .reset s.clearAll
  | field {w : Nat} {P g : Byte} {F : FieldCtx} (h : constructField w P = .ok (F, g)) :
      Effect s (.field w P) (s.putField F)
  | allgen {F : FieldCtx} (hF : s.field = some F) : Effect s .allgen (s.putDout (allGenerators F.w F.poly))
  | mnew {md : MReg} {rows cols : Nat} {fill : Byte} {X : Mat} (h : matNew rows cols fill = .ok X) :
      Effect s (.mnew md rows cols fill) (s.putMat md X)
  | mident {md : MReg} {n : Nat} {X : Mat} (h : matIdentity n = .ok X) : Effect s (.mident md n) (s.putMat md X)
  | mcolv {md : MReg} : Effect s (.mcolv md) (s.putMat md (matColvec s.din))
  | mcauchy {md : MReg} {rows cols : Nat} {F : FieldCtx} {X : Mat} (hF : s.field = some F)
      (h : matCauchy F rows cols = .ok X) : Effect s (.mcauchy md rows cols) (s.putMat md X)
  | mappend {md ma mb : MReg} {T B X : Mat} (hT : s.mat ma = some T) (hB : s.mat mb = some B)
      (h : matAppend T B = .ok X) : Effect s (.mappend md ma mb) (s.putMat md X)
  | mmulf {md ma mb : MReg} {F : FieldCtx} {A B X : Mat} (hF : s.field = some F) (hA : s.mat ma = some A)
      (hB : s.mat mb = some B) (h : matMulF F A B = .ok X) : Effect s (.mmulf md ma mb) (s.putMat md X)
  | mtovec {ma : MReg} {A : Mat} (hA : s.mat ma = some A) : Effect s (.mtovec ma) (s.putDout (matToVec A))
  | mwr {md : MReg} {r col : Nat} {v : Byte} {A : Mat} (hA : s.mat md = some A) (h : r < A.rows ∧ col < A.cols) :
      Effect s (.mwr md r col v) (s.putMat md (A.put r col v))
  | dclr : Effect s .dclr s.clearDin
  | dpush {v : Byte} (h : s.din.length < Config.dinCap) : Effect s (.dpush v) (s.pushDin v)
  | rsnew {k m : Nat} {C : Coder} (h : rsNew k m = .ok C) : Effect s (.rsnew k m) (s.putCoder C)
  | rsenc {C : Coder} {v : List Byte} (hC : s.coder = some C) (h : rsEncode C s.din = .ok v) :
      Effect s .rsenc (s.putDout v)

/-- `Leaves E r`: if `r` is a success, the state it leaves is one that `E` allows. -/
def Leaves (E : State → Prop) (r : Except Err (State × Result)) : Prop := ∀ u v, r = .ok (u, v) → E u

theorem Leaves.ret {E : State → Prop} {u : State} {v : Result} (h : E u) : Leaves E (.ok (u, v)) := by
  rintro _ _ ⟨⟩; exact h

/-- After a test, what it found is known. -/
theorem Leaves.bind {α : Type} {E : State → Prop} {x : Except Err α} {f : α → Except Err (State × Result)}
    (h : ∀ a, x = .ok a → Leaves E (f a)) : Leaves E (x >>= f) := by
  intro u v huv
  obtain ⟨a, hx, ha⟩ := bind_ok.1 huv
  exact h a hx u v ha

/-- Every meaning is its tests and then its writes: read off line by line. -/
theorem exec_leaves (i : Instr) (s : State) : ∃ r, exec i s = complete s r ∧ Leaves (Effect s i) r := by
  cases i with
  | nop | rdfld | rdolen => exact ⟨_, rfl, .ret (.answer rfl)⟩
  | mdim | rdout | rsdim => exact ⟨_, rfl, .bind fun _ _ => .ret (.answer rfl)⟩
  | isgen | mingen | rdpow | rdlog | mrd | rsrdg =>
    exact ⟨_, rfl, .bind fun _ _ => .bind fun _ _ => .ret (.answer rfl)⟩
  | gfadd | gfsub | gfmuld | gfmult =>
    exact ⟨_, rfl, .bind fun _ _ => .bind fun _ _ => .bind fun _ _ => .ret (.answer rfl)⟩
  | gfdivt =>
    exact ⟨_, rfl, .bind fun _ _ => .bind fun _ _ => .bind fun _ _ => .bind fun _ _ => .ret (.answer rfl)⟩
  | reset => exact ⟨_, rfl, .ret .reset⟩
  | field w P => exact ⟨_, rfl, .bind fun _ h => .ret (.field h)⟩
  | allgen => exact ⟨_, rfl, .bind fun _ hF => .ret (.allgen (needField_ok.1 hF))⟩
  | mnew md rows cols fill => exact ⟨_, rfl, .bind fun _ h => .ret (.mnew h)⟩
  | mident md n => exact ⟨_, rfl, .bind fun _ h => .ret (.mident h)⟩
  | mcolv md => exact ⟨_, rfl, .ret .mcolv⟩
  | mcauchy md rows cols =>
    exact ⟨_, rfl, .bind fun _ hF => .bind fun _ h => .ret (.mcauchy (needField_ok.1 hF) h)⟩
  | mappend md ma mb =>
    exact ⟨_, rfl, .bind fun _ hT => .bind fun _ hB => .bind fun _ h =>
      .ret (.mappend (needMat_ok.1 hT) (needMat_ok.1 hB) h)⟩
  | mmulf md ma mb =>
    exact ⟨_, rfl, .bind fun _ hF => .bind fun _ hA => .bind fun _ hB => .bind fun _ h =>
      .ret (.mmulf (needField_ok.1 hF) (needMat_ok.1 hA) (needMat_ok.1 hB) h)⟩
  | mtovec ma => exact ⟨_, rfl, .bind fun _ hA => .ret (.mtovec (needMat_ok.1 hA))⟩
  | mwr md r col v =>
    exact ⟨_, rfl, .bind fun _ hA => .bind fun _ h => .ret (.mwr (needMat_ok.1 hA) (require_ok.1 h))⟩
  | dclr => exact ⟨_, rfl, .ret .dclr⟩
  | dpush v => exact ⟨_, rfl, .bind fun _ h => .ret (.dpush (require_ok.1 h))⟩
  | rsnew k m => exact ⟨_, rfl, .bind fun _ h => .ret (.rsnew h)⟩
  | rsenc => exact ⟨_, rfl, .bind fun _ hC => .bind fun _ h => .ret (.rsenc (needCoder_ok.1 hC) h)⟩

/-- What a command can do (R121): raise an error and write nothing else, or have its writes and answer success. -/
theorem exec_effect {i : Instr} {s t : State} (h : exec i s = .next t) :
    (∃ e, t = raise e s) ∨ ∃ u v, Effect s i u ∧ t = respond statusOk v u := by
  obtain ⟨r, hr, hleaves⟩ := exec_leaves i s
  rcases complete_cases (hr ▸ h) with ⟨u, v, hok, rfl⟩ | ⟨e, -, rfl⟩
  · exact .inr ⟨u, v, hleaves u v hok, rfl⟩
  · exact .inl ⟨e, rfl⟩

/-! ## What each command leaves unchanged -/

/-- A part of the state that is no part of the response, and that the writes of a command leave alone, is unchanged. -/
theorem exec_unchanged {α : Type} (part : State → α) (hresp : ∀ c v u, part (respond c v u) = part u) {i : Instr}
    {s t : State} (h : exec i s = .next t) (heff : ∀ u, Effect s i u → part u = part s) : part t = part s := by
  rcases exec_effect h with ⟨e, rfl⟩ | ⟨u, v, hu, rfl⟩
  · exact hresp _ _ s
  · exact (hresp _ _ u).trans (heff u hu)

theorem Effect.field_eq {i : Instr} {s u : State} (h : Effect s i u) (hreset : i ≠ .reset)
    (hfield : ∀ w P, i ≠ .field w P) : u.field = s.field := by
  cases h with
  | reset => exact absurd rfl hreset
  | field => exact absurd rfl (hfield _ _)
  | mnew | mident | mcolv | mcauchy | mappend | mmulf | mwr => exact putMat_field ..
  | answer | allgen | mtovec | rsenc | dclr | dpush | rsnew => rfl

theorem Effect.coder_eq {i : Instr} {s u : State} (h : Effect s i u) (hreset : i ≠ .reset)
    (hrsnew : ∀ k m, i ≠ .rsnew k m) : u.coder = s.coder := by
  cases h with
  | reset => exact absurd rfl hreset
  | rsnew => exact absurd rfl (hrsnew _ _)
  | mnew | mident | mcolv | mcauchy | mappend | mmulf | mwr => exact putMat_coder ..
  | answer | field | allgen | mtovec | rsenc | dclr | dpush => rfl

theorem Effect.mat_eq {i : Instr} {s u : State} (h : Effect s i u) (hreset : i ≠ .reset) {r : MReg}
    (hr : i.matWritten ≠ some r) : u.mat r = s.mat r := by
  cases h with
  | reset => exact absurd rfl hreset
  | mnew | mident | mcolv | mcauchy | mappend | mmulf | mwr => exact putMat_mat_ne s _ fun hrd => hr (hrd ▸ rfl)
  | answer => rfl
  | field => exact putField_mat ..
  | allgen | mtovec | rsenc => exact putDout_mat ..
  | dclr => exact clearDin_mat ..
  | dpush => exact pushDin_mat ..
  | rsnew => exact putCoder_mat ..

theorem Effect.din_eq {i : Instr} {s u : State} (h : Effect s i u) (hreset : i ≠ .reset) (hdclr : i ≠ .dclr)
    (hdpush : ∀ b, i ≠ .dpush b) : u.din = s.din := by
  cases h with
  | reset => exact absurd rfl hreset
  | dclr => exact absurd rfl hdclr
  | dpush => exact absurd rfl (hdpush _)
  | mnew | mident | mcolv | mcauchy | mappend | mmulf | mwr => exact putMat_din ..
  | answer | field | allgen | mtovec | rsenc | rsnew => rfl

theorem Effect.dout_eq {i : Instr} {s u : State} (h : Effect s i u) (hreset : i ≠ .reset) (hallgen : i ≠ .allgen)
    (hmtovec : ∀ ma, i ≠ .mtovec ma) (hrsenc : i ≠ .rsenc) : u.dout = s.dout := by
  cases h with
  | reset => exact absurd rfl hreset
  | allgen => exact absurd rfl hallgen
  | mtovec => exact absurd rfl (hmtovec _)
  | rsenc => exact absurd rfl hrsenc
  | mnew | mident | mcolv | mcauchy | mappend | mmulf | mwr => exact putMat_dout ..
  | answer | field | dclr | dpush | rsnew => rfl

/-- Settles O54: the writes of `FIELD` and of `RSNEW` are the only ones to a context. -/
theorem contextsChangeOnlyByConstruction : Obligations.ContextsChangeOnlyByConstruction :=
  fun _ _ _ h hreset =>
    ⟨fun hfield => exec_unchanged State.field respond_field h fun _ hu => hu.field_eq hreset hfield,
      fun hrsnew => exec_unchanged State.coder respond_coder h fun _ hu => hu.coder_eq hreset hrsnew⟩

/-- Settles O55: every write to a matrix register is a `putMat` of the register the command names. -/
theorem onlyTheDestinationRegisterChanges : Obligations.OnlyTheDestinationRegisterChanges :=
  fun _ _ _ r h hreset hr =>
    exec_unchanged (State.mat · r) (fun c v u => respond_mat c v u r) h fun _ hu => hu.mat_eq hreset hr

/-- Settles O56, by the writes of each command. -/
theorem buffersChangeOnlyByTheirCommands : Obligations.BuffersChangeOnlyByTheirCommands :=
  fun _ _ _ h hreset =>
    ⟨fun hdclr hdpush => exec_unchanged State.din respond_din h fun _ hu => hu.din_eq hreset hdclr hdpush,
      fun hallgen hmtovec hrsenc =>
        exec_unchanged State.dout respond_dout h fun _ hu => hu.dout_eq hreset hallgen hmtovec hrsenc⟩

/-! ## The last response (R21) -/

/-- The state with another last response. -/
def State.withResponse (s : State) (c : Byte) (v : Result) (b : Bool) : State :=
  { s with status := c, result := v, rspValid := b }

section LastResponse

variable {s : State} {c : Byte} {v : Result} {b : Bool}

/-- A test that does not read the response is the same test, and its error overwrites the response. -/
theorem withResponse_bind {α : Type} {x : Except Err α} {f f' : α → Except Err (State × Result)}
    (h : ∀ a, complete (s.withResponse c v b) (f' a) = complete s (f a)) :
    complete (s.withResponse c v b) (x >>= f') = complete s (x >>= f) := by
  cases x with
  | error e => rfl
  | ok a => exact h a

theorem withResponse_putMat (md : MReg) (X : Mat) (r : Result) :
    complete (s.withResponse c v b) (.ok ((s.withResponse c v b).putMat md X, r)) =
      complete s (.ok (s.putMat md X, r)) := by
  cases md <;> rfl

/-- A command does the same whatever the last response was: its tests and writes are of other parts of the state. -/
theorem exec_withResponse (i : Instr) : exec i (s.withResponse c v b) = exec i s := by
  cases i with
  | nop | reset | rdfld | dclr | rdolen => rfl
  | field | allgen | mtovec | mdim | dpush | rdout | rsnew | rsdim => exact withResponse_bind fun _ => rfl
  | isgen | mingen | rdpow | rdlog | mrd | rsenc | rsrdg =>
    exact withResponse_bind fun _ => withResponse_bind fun _ => rfl
  | gfadd | gfsub | gfmuld | gfmult =>
    exact withResponse_bind fun _ => withResponse_bind fun _ => withResponse_bind fun _ => rfl
  | gfdivt =>
    exact withResponse_bind fun _ => withResponse_bind fun _ => withResponse_bind fun _ =>
      withResponse_bind fun _ => rfl
  | mcolv => exact withResponse_putMat ..
  | mnew | mident => exact withResponse_bind fun _ => withResponse_putMat ..
  | mcauchy | mwr => exact withResponse_bind fun _ => withResponse_bind fun _ => withResponse_putMat ..
  | mappend =>
    exact withResponse_bind fun _ => withResponse_bind fun _ => withResponse_bind fun _ => withResponse_putMat ..
  | mmulf =>
    exact withResponse_bind fun _ => withResponse_bind fun _ => withResponse_bind fun _ =>
      withResponse_bind fun _ => withResponse_putMat ..

end LastResponse

/-- Settles O58: no test reads the response, and both ways a command can end overwrite it whole. -/
theorem noCommandReadsTheLastResponse : Obligations.NoCommandReadsTheLastResponse :=
  fun i _ _ _ _ => exec_withResponse i

end Sys2Proof.Machine
end

section
/-!
PROOF. The encoder and the field context are separate (R15), a step as one of its four cases (R136, R141, R144, R38),
and the invariant of the block: the state after reset has it and every step keeps it.
-/

namespace Sys2Proof.Machine

/-! ## The encoder's commands and the field context (R15) -/

/-- The state with another field context. -/
def State.withField (s : State) (F : Option FieldCtx) : State := { s with field := F }

section OtherField

variable {s t : State} {F : Option FieldCtx}

/-- A success that does not read the field context is the same success under another. -/
theorem withField_ok {u : State} {v : Result} (h : complete s (.ok (u, v)) = .next t) :
    complete (s.withField F) (.ok (u.withField F, v)) = .next (t.withField F) := by
  cases h; rfl

/-- A test that does not read the field context is the same test under another. -/
theorem withField_bind {α : Type} {x : Except Err α} {f f' : α → Except Err (State × Result)}
    (hf : ∀ a, complete s (f a) = .next t → complete (s.withField F) (f' a) = .next (t.withField F))
    (h : complete s (x >>= f) = .next t) : complete (s.withField F) (x >>= f') = .next (t.withField F) := by
  cases x with
  | error e => cases h; rfl
  | ok a => exact hf a h

theorem execRsnew_withField {k m : Nat} (h : execRsnew k m s = .next t) :
    execRsnew k m (s.withField F) = .next (t.withField F) :=
  withField_bind (fun _ => withField_ok) h

theorem execRsenc_withField (h : execRsenc s = .next t) : execRsenc (s.withField F) = .next (t.withField F) :=
  withField_bind (fun _ => withField_bind fun _ => withField_ok) h

theorem execRsrdg_withField {r col : Nat} (h : execRsrdg r col s = .next t) :
    execRsrdg r col (s.withField F) = .next (t.withField F) :=
  withField_bind (fun _ => withField_bind fun _ => withField_ok) h

theorem execRsdim_withField (h : execRsdim s = .next t) : execRsdim (s.withField F) = .next (t.withField F) :=
  withField_bind (fun _ => withField_ok) h

end OtherField

/-- Settles O49: the encoder's commands test and write no field context, and `FIELD` constructs no encoder. -/
theorem encoderDoesNotReadTheField : Obligations.EncoderDoesNotReadTheField := by
  refine ⟨?_, fun w P s t h => (contextsChangeOnlyByConstruction (.field w P) s t h nofun).2 nofun⟩
  rintro i s t F (⟨k, m, rfl⟩ | rfl | ⟨r, c, rfl⟩ | rfl) h
  · exact execRsnew_withField h
  · exact execRsenc_withField h
  · exact execRsrdg_withField h
  · exact execRsdim_withField h

/-! ## One step -/

section Step

variable {s : State} {rest : List HostEvent} {wd : Word}

theorem step_idle (h : s.host = []) : step s = .next (idle s) := by simp [step, accept, h]

theorem step_hardReset (h : s.host = .reset :: rest) : step s = .next (hardReset { s with host := rest }) := by
  simp [step, accept, h]

theorem step_illegal (h : s.host = .command wd :: rest) (hd : decode wd = none) :
    step s = .next (illegalCommand { s with host := rest }) := by
  simp [step, accept, h, hd]

theorem step_command {i : Instr} (h : s.host = .command wd :: rest) (hd : decode wd = some i) :
    step s = exec i { s with host := rest } := by
  simp [step, accept, h, hd]

/-- What a step can do: stay idle (R136), be reset (R141), refuse an illegal word (R38), or execute a command (R9). -/
theorem step_cases {t : State} (h : step s = .next t) :
    t = idle s ∨ ∃ rest, t = hardReset { s with host := rest } ∨ t = illegalCommand { s with host := rest } ∨
      ∃ i, exec i { s with host := rest } = .next t := by
  rcases hhost : s.host with _ | ⟨wd | _, rest⟩
  · rw [step_idle hhost] at h
    cases h; exact .inl rfl
  · refine .inr ⟨rest, .inr ?_⟩
    rcases hd : decode wd with _ | i
    · rw [step_illegal hhost hd] at h
      cases h; exact .inl rfl
    · exact .inr ⟨i, step_command hhost hd ▸ h⟩
  · rw [step_hardReset hhost] at h
    cases h; exact .inr ⟨rest, .inl rfl⟩

end Step

/-- Settles O7: the case of a step in which the word given next is legal. -/
theorem offeredCommandIsExecuted : Obligations.OfferedCommandIsExecuted :=
  fun _ _ _ _ hd => step_command rfl hd

/-- Settles O9: both states have the values of R24. -/
theorem hardResetReachesResetState : Obligations.HardResetReachesResetState := by
  have reset_mat : ∀ r, State.reset.mat r = none := fun r => by cases r <;> rfl
  refine ⟨fun s rest => ⟨hardReset { s with host := rest }, step_hardReset rfl, ?_⟩, ?_⟩
  · simp
  · exact ⟨rfl, rfl, reset_mat, rfl, rfl, rfl, rfl⟩

/-- Settles O42, by the rules of `putMat`. -/
theorem matrixRegistersAreSeparate : Obligations.MatrixRegistersAreSeparate :=
  fun s r X => ⟨putMat_mat_self s r X, fun _ hq => putMat_mat_ne s X hq, putMat_field s r X, putMat_coder s r X,
    putMat_din s r X, putMat_dout s r X⟩

/-! ## The invariant of the block -/

/-- There are fewer candidates than elements (R46). -/
theorem allGenerators_length_le {w : Nat} (P : Byte) (hw : w ≤ 8) : (allGenerators w P).length ≤ 256 := by
  calc (allGenerators w P).length ≤ (candidates w).length := List.length_filter_le ..
    _ = elementCount w - 2 := by simp [candidates]
    _ ≤ 256 := by have := elementCount_le hw; omega

/-- The entries of a matrix register fit DOUT (R17, R18). -/
theorem matToVec_length_le {X : Mat} (h : X.wf) : (matToVec X).length ≤ Config.doutCap := by
  obtain ⟨hrows, hcols, hlen⟩ := h
  rw [matToVec, hlen]
  exact Nat.mul_le_mul hrows hcols

/-- A built encoder meets its invariant (R14, R16). -/
theorem rsNew_inv {k m : Nat} {C : Coder} (h : rsNew k m = .ok C) : C.Inv where
  sizes := rsNew_wf h
  built := by rw [rsNew_dataNum h, rsNew_parityNum h, h]

theorem Effect.memory_wf {i : Instr} {s u : State} (h : Effect s i u) (hs : s.Inv) : Memory.wf u := by
  have hmem := hs.memory
  have mat_wf {r : MReg} {X : Mat} (hX : s.mat r = some X) : X.wf := Memory.wf_mat hmem hX
  cases h with
  | answer => exact hmem
  | reset => exact clearAll_wf s
  | field h => exact putField_wf hmem (constructField_inv h).1.sizes
  | allgen hF =>
    exact putDout_wf hmem ((allGenerators_length_le _ (hs.field _ hF).order.2).trans (by decide))
  | mnew h => exact putMat_wf hmem (matNew_wf h) _
  | mident h => exact putMat_wf hmem (matIdentity_wf h) _
  | mcolv =>
    obtain ⟨-, -, -, -, -, -, hdin, -⟩ := hmem
    exact putMat_wf hs.memory (matColvec_wf hdin) _
  | mcauchy _ h => exact putMat_wf hmem (matCauchy_wf h) _
  | mappend hT hB h => exact putMat_wf hmem (matAppend_wf (mat_wf hT) (mat_wf hB) h) _
  | mmulf _ hA hB h => exact putMat_wf hmem (matMulF_wf (mat_wf hA) (mat_wf hB) h) _
  | mtovec hA => exact putDout_wf hmem (matToVec_length_le (mat_wf hA))
  | mwr hA _ => exact putMat_wf hmem (put_wf (mat_wf hA) ..) _
  | dclr => exact clearDin_wf hmem
  | dpush h => exact pushDin_wf hmem _ h
  | rsnew h => exact putCoder_wf hmem (rsNew_wf h)
  | rsenc hC h =>
    obtain ⟨-, hcount, -⟩ := (hs.coder _ hC).sizes
    exact putDout_wf hmem ((rsEncode_length h).le.trans (hcount.trans (by decide)))

theorem Effect.field_inv {i : Instr} {s u : State} (h : Effect s i u) (hs : ∀ F, s.field = some F → F.Inv) :
    ∀ F, u.field = some F → F.Inv := by
  cases h with
  | field h => rintro _ ⟨⟩; exact (constructField_inv h).1
  | reset => nofun
  | mnew | mident | mcolv | mcauchy | mappend | mmulf | mwr => rw [putMat_field]; exact hs
  | answer | allgen | mtovec | rsenc | dclr | dpush | rsnew => exact hs

theorem Effect.coder_inv {i : Instr} {s u : State} (h : Effect s i u) (hs : ∀ C, s.coder = some C → C.Inv) :
    ∀ C, u.coder = some C → C.Inv := by
  cases h with
  | rsnew h => rintro _ ⟨⟩; exact rsNew_inv h
  | reset => nofun
  | mnew | mident | mcolv | mcauchy | mappend | mmulf | mwr => rw [putMat_coder]; exact hs
  | answer | field | allgen | mtovec | rsenc | dclr | dpush => exact hs

/-- An error writes nothing but a code of R122 and RESULT 0 (R121). -/
theorem raise_inv {s : State} (hs : s.Inv) (e : Err) : (raise e s).Inv where
  memory := raise_wf hs.memory e
  field := hs.field
  coder := hs.coder
  statusCode := code_le e
  errorResult _ := rfl

/-- Every command keeps the invariant. -/
theorem exec_inv {i : Instr} {s t : State} (hs : s.Inv) (h : exec i s = .next t) : t.Inv := by
  rcases exec_effect h with ⟨e, rfl⟩ | ⟨u, v, hu, rfl⟩
  · exact raise_inv hs e
  · exact {
      memory := respond_wf (hu.memory_wf hs) _ _
      field := hu.field_inv hs.field
      coder := hu.coder_inv hs.coder
      statusCode := Nat.zero_le _
      errorResult := fun herr => absurd rfl herr }

/-- A state with nothing valid, both buffers empty and an `OK` response meets the invariant. -/
theorem hardReset_inv (s : State) : (hardReset s).Inv where
  memory := hardReset_wf s
  field := nofun
  coder := nofun
  statusCode := Nat.zero_le _
  errorResult herr := absurd rfl herr

/-- Settles O52: the state after reset is the hard reset of itself. -/
theorem resetMeetsTheInvariant : Obligations.ResetMeetsTheInvariant := hardReset_inv State.reset

/-- What the host still gives is no part of the invariant. -/
theorem withHost_inv {s : State} (hs : s.Inv) (rest : List HostEvent) : State.Inv { s with host := rest } :=
  ⟨hs.memory, hs.field, hs.coder, hs.statusCode, hs.errorResult⟩

theorem idle_inv {s : State} (hs : s.Inv) : (idle s).Inv :=
  ⟨idle_wf hs.memory, hs.field, hs.coder, hs.statusCode, hs.errorResult⟩

/-- Settles O51, by the four cases of a step; a command keeps the invariant because its writes do. -/
theorem stepKeepsTheInvariant : Obligations.StepKeepsTheInvariant := by
  intro s t hs h
  rcases step_cases h with rfl | ⟨rest, rfl | rfl | ⟨i, hexec⟩⟩
  · exact idle_inv hs
  · exact hardReset_inv _
  · exact raise_inv (withHost_inv hs rest) _
  · exact exec_inv (withHost_inv hs rest) hexec

end Sys2Proof.Machine
end

section
/-!
PROOF. The command word (R35, R37): a word is its fields, a command is its mnemonic and the contents of its operand
fields, the encoder packs those fields and the decoder reads them, and the masks of R37. The illegal words of R38.
-/

namespace Sys2Proof

/-! ## A word is its fields (R35) -/

/-- The bits of a field are bits of the word. -/
theorem getLsbD_eq_of_field {v wd : Word} {start len i : Nat}
    (h : v.extractLsb' start len = wd.extractLsb' start len) (hlo : start ≤ i) (hhi : i < start + len) :
    v.getLsbD i = wd.getLsbD i := by
  have hbit := congrArg (·.getLsbD (i - start)) h
  have hlt : i - start < len := by omega
  simpa [hlt, Nat.add_sub_cancel' hlo] using hbit

/-- The fields of R35 cover the word. -/
theorem word_ext_iff {v wd : Word} : v = wd ↔
    opField v = opField wd ∧ zeroField v = zeroField wd ∧ mdField v = mdField wd ∧ maField v = maField wd ∧
      mbField v = mbField wd ∧ cField v = cField wd ∧ aField v = aField wd ∧ bField v = bField wd := by
  refine ⟨fun h => by simp [h], fun ⟨hop, hzero, hmd, hma, hmb, hc, ha, hb⟩ => BitVec.eq_of_getLsbD_eq fun i hi => ?_⟩
  have hfield : i < 16 ∨ 16 ≤ i ∧ i < 32 ∨ 32 ≤ i ∧ i < 40 ∨ 40 ≤ i ∧ i < 50 ∨ 50 ≤ i ∧ i < 52 ∨ 52 ≤ i ∧ i < 54 ∨
      54 ≤ i ∧ i < 56 ∨ 56 ≤ i := by omega
  rcases hfield with h | ⟨h, h'⟩ | ⟨h, h'⟩ | ⟨h, h'⟩ | ⟨h, h'⟩ | ⟨h, h'⟩ | ⟨h, h'⟩ | h
  · exact getLsbD_eq_of_field hb (Nat.zero_le i) (by omega)
  · exact getLsbD_eq_of_field ha h h'
  · exact getLsbD_eq_of_field hc h h'
  · exact getLsbD_eq_of_field hzero h h'
  · exact getLsbD_eq_of_field hmb h h'
  · exact getLsbD_eq_of_field hma h h'
  · exact getLsbD_eq_of_field hmd h h'
  · exact getLsbD_eq_of_field hop h (by omega)

section
variable (v wd : Word)

@[simp] theorem opField_and : opField (v &&& wd) = opField v &&& opField wd := BitVec.extractLsb'_and
@[simp] theorem zeroField_and : zeroField (v &&& wd) = zeroField v &&& zeroField wd := BitVec.extractLsb'_and
@[simp] theorem mdField_and : mdField (v &&& wd) = mdField v &&& mdField wd := BitVec.extractLsb'_and
@[simp] theorem maField_and : maField (v &&& wd) = maField v &&& maField wd := BitVec.extractLsb'_and
@[simp] theorem mbField_and : mbField (v &&& wd) = mbField v &&& mbField wd := BitVec.extractLsb'_and
@[simp] theorem cField_and : cField (v &&& wd) = cField v &&& cField wd := BitVec.extractLsb'_and
@[simp] theorem aField_and : aField (v &&& wd) = aField v &&& aField wd := BitVec.extractLsb'_and
@[simp] theorem bField_and : bField (v &&& wd) = bField v &&& bField wd := BitVec.extractLsb'_and

end

/-! ## Legal words (R38) and the masks of R37 -/

/-- R38 (b) and (c): the reserved field and the fields that are not used are zero. -/
theorem legal_iff {u : Uses} {wd : Word} : u.legal wd = true ↔
    zeroField wd = 0#10 ∧ (u.md = false → mdField wd = 0#2) ∧ (u.ma = false → maField wd = 0#2) ∧
      (u.mb = false → mbField wd = 0#2) ∧ (u.c = false → cField wd = 0#8) ∧ (u.a = false → aField wd = 0#16) ∧
      (u.b = false → bField wd = 0#16) := by
  simp [Uses.legal, and_assoc, ← Bool.not_eq_true, imp_iff_not_or]

/-- The mask over a field: it compares the field exactly when the command does not use it (R37). -/
def compared (used : Bool) (w : Nat) : BitVec w := if used then 0#w else BitVec.allOnes w

theorem and_compared_eq_zero {w : Nat} {x : BitVec w} {used : Bool} :
    x &&& compared used w = 0#w ↔ (used = false → x = 0#w) := by
  cases used <;> simp [compared]

/-- A row's mask compares the opcode, the reserved field and the fields the command does not use (R37). -/
theorem mask_fields (m : Mnemonic) :
    opField m.mask = compared false 8 ∧ zeroField m.mask = compared false 10 ∧
      mdField m.mask = compared m.uses.md 2 ∧ maField m.mask = compared m.uses.ma 2 ∧
      mbField m.mask = compared m.uses.mb 2 ∧ cField m.mask = compared m.uses.c 8 ∧
      aField m.mask = compared m.uses.a 16 ∧ bField m.mask = compared m.uses.b 16 := by
  cases m <;> decide

/-- A row's match is its opcode and zeros (R37). -/
theorem matchWord_eq_pack (m : Mnemonic) : m.matchWord = packWord m.op .m0 .m0 .m0 0#8 0 0 := by
  cases m <;> decide

/-- A word with a row's opcode passes the comparison with its mask and match exactly when it is legal (R37, R38). -/
theorem and_mask_eq_matchWord_iff {m : Mnemonic} {wd : Word} (hop : m.op = opField wd) :
    wd &&& m.mask = m.matchWord ↔ m.uses.legal wd = true := by
  obtain ⟨mop, mzero, mmd, mma, mmb, mc, ma, mb⟩ := mask_fields m
  have hopMask : opField wd &&& compared false 8 = opField wd := BitVec.and_allOnes
  rw [legal_iff, matchWord_eq_pack, word_ext_iff]
  simp [mop, mzero, mmd, mma, mmb, mc, ma, mb, hop, hopMask, and_compared_eq_zero]

/-- Settles O3: each field of R35 is the slice of the word, and the comparison is the test of R38. -/
theorem decoderIsMaskAndMatch : Obligations.DecoderIsMaskAndMatch := by
  intro wd
  have hop : wd.extractLsb 63 56 = opField wd := rfl
  rw [hop, decode]
  cases h : Mnemonic.ofOp (opField wd) with
  | none => rfl
  | some m => exact if_congr (and_mask_eq_matchWord_iff (op_of_ofOp h)).symm rfl rfl

/-! ## A command is its mnemonic and its operand fields (R36, R37) -/

/-- The contents of the operand fields of a command word (R35). -/
structure Operands where
  md : MReg := .m0
  ma : MReg := .m0
  mb : MReg := .m0
  c : Byte := 0#8
  a : Nat := 0
  b : Nat := 0

/-- The operand fields of a command; the fields it does not use are zero (R38). -/
def Instr.operands : Instr → Operands
  | .nop | .reset | .mingen | .allgen | .rdfld | .dclr | .rdolen | .rsenc | .rsdim => {}
  | .field w poly => { a := w, c := poly }
  | .gfadd x y | .gfsub x y | .gfmuld x y | .gfmult x y | .gfdivt x y => { a := x, b := y }
  | .isgen n | .rdpow n | .rdlog n | .rdout n => { a := n }
  | .mnew md rows cols fill => { md := md, a := rows, b := cols, c := fill }
  | .mident md n => { md := md, a := n }
  | .mcolv md => { md := md }
  | .mcauchy md rows cols => { md := md, a := rows, b := cols }
  | .mappend md ma mb | .mmulf md ma mb => { md := md, ma := ma, mb := mb }
  | .mtovec ma | .mdim ma => { ma := ma }
  | .mrd ma r col => { ma := ma, a := r, b := col }
  | .mwr md r col value => { md := md, a := r, b := col, c := value }
  | .dpush byte => { c := byte }
  | .rsnew dataNum parityNum => { a := dataNum, b := parityNum }
  | .rsrdg r col => { a := r, b := col }

/-- The command a mnemonic makes of the operand fields. -/
def Operands.command (o : Operands) (m : Mnemonic) : Instr := m.build o.md o.ma o.mb o.c o.a o.b

/-- The word of an opcode and the operand fields. -/
def Operands.pack (o : Operands) (op : Byte) : Word := packWord op o.md o.ma o.mb o.c o.a o.b

/-- The operand fields of a word (R35, R36). -/
def operandsOf (wd : Word) : Operands where
  md := MReg.ofBits (mdField wd)
  ma := MReg.ofBits (maField wd)
  mb := MReg.ofBits (mbField wd)
  c := cField wd
  a := (aField wd).toNat
  b := (bField wd).toNat

/-- The operand fields that are not used are zero (R38). -/
def Operands.UnusedZero (o : Operands) (u : Uses) : Prop :=
  (u.md = false → o.md = .m0) ∧ (u.ma = false → o.ma = .m0) ∧ (u.mb = false → o.mb = .m0) ∧
    (u.c = false → o.c = 0#8) ∧ (u.a = false → o.a = 0) ∧ (u.b = false → o.b = 0)

theorem command_operands (i : Instr) : i.operands.command i.mnemonic = i := by cases i <;> rfl

theorem operands_unusedZero (i : Instr) : i.operands.UnusedZero i.mnemonic.uses := by
  cases i <;> simp [Operands.UnusedZero, Instr.operands, Instr.mnemonic, Mnemonic.uses]

/-- A command keeps the operand fields it is made of, if those it does not use are zero. -/
theorem operands_command {o : Operands} {m : Mnemonic} (h : o.UnusedZero m.uses) : (o.command m).operands = o := by
  obtain ⟨md, ma, mb, c, a, b⟩ := o
  cases m <;> simp_all [Operands.UnusedZero, Operands.command, Mnemonic.build, Instr.operands, Mnemonic.uses]

/-- A command has a word exactly when its two scalar fields fit. -/
theorem wf_iff_operands (i : Instr) : i.wf = true ↔ fits16 i.operands.a = true ∧ fits16 i.operands.b = true := by
  have hzero : fits16 0 = true := rfl
  cases i <;> simp [Instr.wf, Instr.operands, hzero]

/-! ## Encoding and decoding -/

/-- The encoder packs the opcode and the operand fields. -/
theorem encode_eq_pack (i : Instr) : encode i = i.operands.pack i.mnemonic.op := by cases i <;> rfl

theorem operandsOf_pack {o : Operands} (op : Byte) (ha : fits16 o.a = true) (hb : fits16 o.b = true) :
    operandsOf (o.pack op) = o := by
  simp [operandsOf, Operands.pack, toNat_of_fits16 ha, toNat_of_fits16 hb]

theorem pack_operandsOf {wd : Word} (h : zeroField wd = 0#10) : (operandsOf wd).pack (opField wd) = wd := by
  simp [word_ext_iff, operandsOf, Operands.pack, h]

theorem ofBits_eq_m0 {n : BitVec 2} : MReg.ofBits n = .m0 ↔ n = 0#2 := by revert n; decide

/-- A legal word is one whose reserved field and unused operands are zero. -/
theorem legal_iff_operandsOf {u : Uses} {wd : Word} :
    u.legal wd = true ↔ zeroField wd = 0#10 ∧ (operandsOf wd).UnusedZero u := by
  simp [legal_iff, Operands.UnusedZero, operandsOf, ofBits_eq_m0, BitVec.toNat_eq]

/-- Decoding takes the row of the opcode, tests the word and makes the command of its operand fields (R41). -/
theorem decode_eq_some_iff {wd : Word} {i : Instr} : decode wd = some i ↔
    ∃ m : Mnemonic, m.op = opField wd ∧ m.uses.legal wd = true ∧ (operandsOf wd).command m = i := by
  constructor
  · intro h
    obtain ⟨m, hm, hl, rfl⟩ := decode_some h
    exact ⟨m, op_of_ofOp hm, hl, rfl⟩
  · rintro ⟨m, hop, hl, rfl⟩
    simp [decode, ← hop, hl, operandsOf, Operands.command]

/-- Settles O1: the fields read from the packed word are the operands packed, and those make the command. -/
theorem decodeInvertsEncode : Obligations.DecodeInvertsEncode := by
  intro i hi
  obtain ⟨ha, hb⟩ := (wf_iff_operands i).mp hi
  have hread : operandsOf (encode i) = i.operands := by rw [encode_eq_pack, operandsOf_pack _ ha hb]
  have hop : i.mnemonic.op = opField (encode i) := by rw [encode_eq_pack]; exact (opField_pack ..).symm
  have hzero : zeroField (encode i) = 0#10 := by rw [encode_eq_pack]; exact zeroField_pack ..
  have hlegal : i.mnemonic.uses.legal (encode i) = true :=
    legal_iff_operandsOf.mpr ⟨hzero, hread ▸ operands_unusedZero i⟩
  exact decode_eq_some_iff.mpr ⟨i.mnemonic, hop, hlegal, by rw [hread, command_operands]⟩

/-- Settles O2: the command keeps the operand fields read from the word, and packing them gives the word. -/
theorem encodeInvertsDecode : Obligations.EncodeInvertsDecode := by
  intro wd i h
  obtain ⟨m, hop, hl, rfl⟩ := decode_eq_some_iff.mp h
  obtain ⟨hzero, hunused⟩ := legal_iff_operandsOf.mp hl
  have hkept : ((operandsOf wd).command m).operands = operandsOf wd := operands_command hunused
  have hmnemonic : ((operandsOf wd).command m).mnemonic = m := mnemonic_build ..
  constructor
  · rw [wf_iff_operands, hkept]
    exact ⟨fits16_toNat _, fits16_toNat _⟩
  · rw [encode_eq_pack, hkept, hmnemonic, hop, pack_operandsOf hzero]

/-- Settles O4, by decoding each word. -/
theorem specWordsDecode : Obligations.SpecWordsDecode := by
  unfold Obligations.SpecWordsDecode
  decide

end Sys2Proof

namespace Sys2Proof.Machine

/-! ## Illegal words (R38) -/

/-- No two rows of R37 share an opcode. -/
theorem op_injective {m m' : Mnemonic} (h : m.op = m'.op) : m = m' :=
  Option.some.inj <| by rw [← ofOp_op m, h, ofOp_op]

/-- A word that decodes to no command raises `IllegalCommand`. -/
theorem step_offer_illegal (s : State) {wd : Word} (h : ∀ i, decode wd ≠ some i) :
    step (s.offer wd) = .next (answerErr 0x0F#8 s) :=
  step_illegal rfl (Option.eq_none_iff_forall_ne_some.mpr h)

/-- Settles O5: a word that decodes has the opcode of a row and is legal for it, which each case of R38 denies. -/
theorem illegalWordsRaiseIllegalCommand : Obligations.IllegalWordsRaiseIllegalCommand := by
  refine fun s wd => ⟨fun hnone => ?_, fun hzero => ?_, fun m hop hfield => ?_⟩ <;>
    refine step_offer_illegal s fun i hi => ?_ <;>
    obtain ⟨m', hop', hlegal, -⟩ := decode_eq_some_iff.mp hi
  · exact hnone m' hop'
  · exact hzero (legal_iff.mp hlegal).1
  · obtain rfl : m' = m := op_injective (hop'.trans hop.symm)
    obtain ⟨-, hmd, hma, hmb, hc, ha, hb⟩ := legal_iff.mp hlegal
    rcases hfield with ⟨hu, h⟩ | ⟨hu, h⟩ | ⟨hu, h⟩ | ⟨hu, h⟩ | ⟨hu, h⟩ | ⟨hu, h⟩
    · exact h (hmd hu)
    · exact h (hma hu)
    · exact h (hmb hu)
    · exact h (hc hu)
    · exact h (ha hu)
    · exact h (hb hu)

end Sys2Proof.Machine
end

section
/-!
PROOF. The written commands of R40: the text a command is printed as is read back piece by piece, from the
digits of a number to the line.
-/

namespace Sys2Proof.Machine

/-! ## Characters of names and numbers -/

/-- Characters that no cutting or trimming touches: no blank, comma or comment sign. -/
def isPlain (c : Char) : Bool := !isBlankChar c && c != ',' && c != '#'

theorem isPlain_of_isDigit {c : Char} (h : c.isDigit = true) : isPlain c = true := by
  have hne : ∀ d : Char, d.isDigit = false → c ≠ d := by rintro d hd rfl; simp [h] at hd
  simp [isPlain, isBlankChar, hne]

/-- The text of a mnemonic or an operand: at least one character, all plain. -/
structure PlainText (t : List Char) : Prop where
  ne_nil : t ≠ []
  plain : ∀ c ∈ t, isPlain c = true

theorem PlainText.not_blank {t : List Char} (h : PlainText t) : ∀ c ∈ t, isBlankChar c = false := by
  intro c hc
  obtain ⟨⟨hblank, -⟩, -⟩ : (isBlankChar c = false ∧ c ≠ ',') ∧ c ≠ '#' := by simpa [isPlain] using h.plain c hc
  exact hblank

theorem PlainText.comma_notMem {t : List Char} (h : PlainText t) : ',' ∉ t :=
  fun hc => absurd (h.plain _ hc) (by decide)

theorem PlainText.hash_notMem {t : List Char} (h : PlainText t) : '#' ∉ t :=
  fun hc => absurd (h.plain _ hc) (by decide)

theorem isDigit_of_mem_toDigits {n : Nat} {c : Char} (hc : c ∈ Nat.toDigits 10 n) : c.isDigit = true :=
  Nat.isDigit_of_mem_toDigits (by decide) (by decide) hc

theorem plainText_mnemonicText (m : Mnemonic) : PlainText (mnemonicText m) :=
  ⟨by cases m <;> decide, List.all_eq_true.mp (by cases m <;> decide)⟩

theorem plainText_operandText (o : AsmOperand) : PlainText (operandText o) := by
  cases o with
  | reg r => exact ⟨by cases r <;> decide, List.all_eq_true.mp (by cases r <;> decide)⟩
  | num n => exact ⟨Nat.toDigits_ne_nil, fun c hc => isPlain_of_isDigit (isDigit_of_mem_toDigits hc)⟩

/-! ## Numbers and registers -/

theorem digitValue_of_isDigit {c : Char} (h : c.isDigit = true) :
    digitValue 10 c = some (c.toNat - '0'.toNat) := by
  have hrange : '0' ≤ c ∧ c ≤ '9' := by simpa [Char.isDigit, Char.le_def] using h
  have hlt : c.toNat - '0'.toNat < 10 := Nat.sub_lt_left_of_lt_add hrange.1 (Nat.lt_succ_of_le hrange.2)
  simp only [digitValue, if_pos hrange, if_pos hlt]

/-- Reading decimal digits computes the library's value of them. -/
theorem readDigits_eq_ofDigitChars {t : List Char} (acc : Nat) (h : ∀ c ∈ t, c.isDigit = true) :
    readDigits 10 acc t = some (Nat.ofDigitChars 10 t acc) := by
  induction t generalizing acc with
  | nil => simp [readDigits]
  | cons c t ih =>
    obtain ⟨hc, ht⟩ := List.forall_mem_cons.mp h
    simp only [readDigits, digitValue_of_isDigit hc, Nat.ofDigitChars_cons, Nat.mul_comm 10 acc]
    exact ih _ ht

/-- Decimal digits are read as a decimal number: none of them is the `x` of the `0x` form. -/
theorem readNumber_of_digits {t : List Char} (hne : t ≠ []) (h : ∀ c ∈ t, c.isDigit = true) :
    readNumber t = readDigits 10 0 t := by
  unfold readNumber
  split
  · exact absurd rfl hne
  · exact absurd (h 'x' (by simp)) (by decide)
  · rfl

@[simp] theorem readNumber_toDigits (n : Nat) : readNumber (Nat.toDigits 10 n) = some n := by
  have hdigits : ∀ c ∈ Nat.toDigits 10 n, c.isDigit = true := fun c => isDigit_of_mem_toDigits
  rw [readNumber_of_digits Nat.toDigits_ne_nil hdigits, readDigits_eq_ofDigitChars 0 hdigits,
    Nat.ofDigitChars_ten_toDigits]

/-- A text without an `M` is no register name. -/
theorem readOperand_of_not_reg {t : List Char} (h : 'M' ∉ t) : readOperand t = (readNumber t).map .num := by
  unfold readOperand
  split
  case h_5 => rfl
  all_goals exact absurd (List.mem_cons_self ..) h

@[simp] theorem readOperand_operandText (o : AsmOperand) : readOperand (operandText o) = some o := by
  cases o with
  | reg r => cases r <;> rfl
  | num n =>
    have hM : 'M' ∉ Nat.toDigits 10 n := fun h => absurd (isDigit_of_mem_toDigits h) (by decide)
    simp [operandText, readOperand_of_not_reg hM]

/-! ## Trimming and cutting -/

theorem dropBlanks_of_prefix {t u : List Char} (hu : PlainText u) (h : u <+: t) : t.dropWhile isBlankChar = t := by
  obtain ⟨v, rfl⟩ := h
  obtain ⟨c, u, rfl⟩ := List.exists_cons_of_ne_nil hu.ne_nil
  simp [hu.not_blank c]

theorem PlainText.reverse {t : List Char} (h : PlainText t) : PlainText t.reverse :=
  ⟨by simpa using h.ne_nil, by simpa using h.plain⟩

/-- Trimming leaves a text alone that begins and ends with plain text. -/
theorem trimBlanks_eq_self {t u w : List Char} (hu : PlainText u) (hw : PlainText w) (hpre : u <+: t) (hsuf : w <:+ t) :
    trimBlanks t = t := by
  rw [trimBlanks, dropBlanks_of_prefix hu hpre, dropBlanks_of_prefix hw.reverse (List.reverse_prefix.mpr hsuf),
    List.reverse_reverse]

theorem PlainText.trim {t : List Char} (h : PlainText t) : trimBlanks t = t :=
  trimBlanks_eq_self h h ⟨[], List.append_nil t⟩ ⟨[], rfl⟩

theorem trimBlanks_cons_space (t : List Char) : trimBlanks (' ' :: t) = trimBlanks t := rfl

/-- Cutting a longer text: a separator begins a new piece, any other character belongs to the first piece. -/
theorem cutAt_cons (sep c : Char) (t : List Char) : ∃ p ps, cutAt sep t = p :: ps ∧
    cutAt sep (c :: t) = if c = sep then [] :: p :: ps else (c :: p) :: ps := by
  have hne : cutAt sep t ≠ [] := by
    cases t with
    | nil => simp [cutAt]
    | cons d t => unfold cutAt; repeat' split <;> simp
  obtain ⟨p, ps, h⟩ := List.exists_cons_of_ne_nil hne
  exact ⟨p, ps, h, by simp [cutAt, h]⟩

theorem cutAt_cons_sep (sep : Char) (t : List Char) : cutAt sep (sep :: t) = [] :: cutAt sep t := by
  obtain ⟨p, ps, h, hcons⟩ := cutAt_cons sep sep t
  simp [hcons, h]

/-- The text before the first separator is the first piece. -/
theorem cutAt_append_sep {sep : Char} {u : List Char} (v : List Char) (h : sep ∉ u) :
    cutAt sep (u ++ sep :: v) = u :: cutAt sep v := by
  induction u with
  | nil => exact cutAt_cons_sep sep v
  | cons c u ih =>
    obtain ⟨hc, hu⟩ := not_or.mp (mt List.mem_cons.mpr h)
    simp [cutAt, ih hu, Ne.symm hc]

theorem cutAt_of_notMem {sep : Char} {u : List Char} (h : sep ∉ u) : cutAt sep u = [u] := by
  induction u with
  | nil => rfl
  | cons c u ih =>
    obtain ⟨hc, hu⟩ := not_or.mp (mt List.mem_cons.mpr h)
    simp [cutAt, ih hu, Ne.symm hc]

/-! ## Operands -/

/-- A blank before the operands makes no difference. -/
theorem readOperands_cutAt_space (t : List Char) :
    readOperands (cutAt ',' (' ' :: t)) = readOperands (cutAt ',' t) := by
  obtain ⟨p, ps, h, hcons⟩ := cutAt_cons ',' ' ' t
  rw [h, hcons]
  simp [readOperands, trimBlanks_cons_space]

theorem readOperands_cons_operandText (o : AsmOperand) (ps : List (List Char)) :
    readOperands (operandText o :: ps) = (readOperands ps).map (o :: ·) := by
  rw [readOperands, (plainText_operandText o).trim, readOperand_operandText]
  cases readOperands ps <;> rfl

theorem operandsText_cons_cons (o o' : AsmOperand) (os : List AsmOperand) :
    operandsText (o :: o' :: os) = operandText o ++ ',' :: ' ' :: operandsText (o' :: os) := by
  simp [operandsText]

/-- Printed operands are read back. -/
theorem readOperands_operandsText (o : AsmOperand) (os : List AsmOperand) :
    readOperands (cutAt ',' (operandsText (o :: os))) = some (o :: os) := by
  have hcomma o : ',' ∉ operandText o := (plainText_operandText o).comma_notMem
  induction os generalizing o with
  | nil =>
    rw [operandsText, cutAt_of_notMem (hcomma o), readOperands_cons_operandText]
    rfl
  | cons o' os ih =>
    rw [operandsText_cons_cons, cutAt_append_sep _ (hcomma o), readOperands_cons_operandText,
      readOperands_cutAt_space, ih]
    rfl

theorem operandText_prefix (o : AsmOperand) (os : List AsmOperand) : operandText o <+: operandsText (o :: os) := by
  cases os with
  | nil => exact ⟨[], List.append_nil _⟩
  | cons o' os => rw [operandsText_cons_cons]; exact ⟨_, rfl⟩

/-- Printed operands end with the last one. -/
theorem operandText_suffix (o : AsmOperand) (os : List AsmOperand) :
    ∃ last, operandText last <:+ operandsText (o :: os) := by
  induction os generalizing o with
  | nil => exact ⟨o, List.suffix_refl _⟩
  | cons o' os ih =>
    obtain ⟨last, h⟩ := ih o'
    refine ⟨last, h.trans ?_⟩
    rw [operandsText_cons_cons]
    exact ⟨operandText o ++ [',', ' '], by simp⟩

theorem hash_notMem_operandsText (os : List AsmOperand) : '#' ∉ operandsText os := by
  have hhash o : '#' ∉ operandText o := (plainText_operandText o).hash_notMem
  induction os using operandsText.induct with
  | case1 => simp [operandsText]
  | case2 o => exact hhash o
  | case3 o os _ ih => simp [operandsText, hhash, ih]

/-! ## The written operands of a command -/

/-- An operand is written exactly when the command uses its field. -/
def written (used : Bool) (x : AsmOperand) (rest : List AsmOperand) : List AsmOperand :=
  if used then x :: rest else rest

/-- The operand fields a command uses, in the order `md`, `ma`, `mb`, `a`, `b`, `c`. -/
def writtenOperands (u : Uses) (o : Operands) : List AsmOperand :=
  written u.md (.reg o.md) <| written u.ma (.reg o.ma) <| written u.mb (.reg o.mb) <|
    written u.a (.num o.a) <| written u.b (.num o.b) <| written u.c (.num o.c.toNat) []

/-- Every row of R40's table writes the fields its command uses, in this order. -/
theorem asmOperands_eq (i : Instr) : asmOperands i = writtenOperands i.mnemonic.uses i.operands := by cases i <;> rfl

/-- A written register is taken; a field that is not used names M0. -/
theorem takeReg_written {used : Bool} {r : MReg} (os : List AsmOperand) (h : used = false → r = .m0) :
    takeReg used (written used (.reg r) os) = some (r, os) := by
  cases used with
  | false => simp [takeReg, written, h rfl]
  | true => rfl

/-- A written number that fits its field is taken; a field that is not used is zero. -/
theorem takeNum_written {used : Bool} {n bound : Nat} (os : List AsmOperand) (h : used = false → n = 0)
    (hfit : n < bound) : takeNum used bound (written used (.num n) os) = some (n, os) := by
  cases used with
  | false => simp [takeNum, written, h rfl]
  | true => simp [takeNum, written, hfit]

/-- Written operands that fit give the command of these operands. -/
theorem instrOfText_writtenOperands {m : Mnemonic} {o : Operands} (h : o.UnusedZero m.uses)
    (ha : fits16 o.a = true) (hb : fits16 o.b = true) :
    instrOfText m (writtenOperands m.uses o) = some (o.command m) := by
  obtain ⟨hmd, hma, hmb, hc, ha0, hb0⟩ := h
  have hc0 : m.uses.c = false → o.c.toNat = 0 := fun hu => by rw [hc hu]; rfl
  simp [instrOfText, writtenOperands, takeReg_written _ hmd, takeReg_written _ hma, takeReg_written _ hmb,
    takeNum_written _ ha0 (of_decide_eq_true ha), takeNum_written _ hb0 (of_decide_eq_true hb),
    takeNum_written _ hc0 o.c.isLt, Operands.command]

/-- The written operands of a command give the command back. -/
theorem instrOfText_asmOperands {i : Instr} (h : i.wf = true) : instrOfText i.mnemonic (asmOperands i) = some i := by
  obtain ⟨ha, hb⟩ := (wf_iff_operands i).mp h
  rw [asmOperands_eq, instrOfText_writtenOperands (operands_unusedZero i) ha hb, command_operands]

/-! ## The line -/

/-- What is written after the mnemonic. -/
def printTail : List AsmOperand → List Char
  | [] => []
  | os => ' ' :: operandsText os

theorem printInstr_eq (i : Instr) : printInstr i = mnemonicText i.mnemonic ++ printTail (asmOperands i) := by
  unfold printInstr
  cases asmOperands i <;> simp [printTail]

/-- The line holds no comment. -/
theorem takeWhile_printInstr (i : Instr) : (printInstr i).takeWhile (· != '#') = printInstr i := by
  have hhash : '#' ∉ printInstr i := by
    rw [printInstr_eq]
    cases asmOperands i <;> simp [printTail, (plainText_mnemonicText _).hash_notMem, hash_notMem_operandsText]
  rw [List.takeWhile_eq_self_iff]
  exact fun c hc => bne_iff_ne.mpr fun h => hhash (h ▸ hc)

/-- The line begins with its mnemonic and ends with it or with the last operand. -/
theorem trimBlanks_printInstr (i : Instr) : trimBlanks (printInstr i) = printInstr i := by
  have hname := plainText_mnemonicText i.mnemonic
  rw [printInstr_eq]
  cases asmOperands i with
  | nil => simpa [printTail] using hname.trim
  | cons o os =>
    obtain ⟨last, hlast⟩ := operandText_suffix o os
    exact trimBlanks_eq_self hname (plainText_operandText last) ⟨_, rfl⟩
      (hlast.trans ⟨mnemonicText i.mnemonic ++ [' '], by simp [printTail]⟩)

theorem trimBlanks_printTail (os : List AsmOperand) : trimBlanks (printTail os) = operandsText os := by
  cases os with
  | nil => rfl
  | cons o os =>
    obtain ⟨last, hlast⟩ := operandText_suffix o os
    exact (trimBlanks_cons_space _).trans <|
      trimBlanks_eq_self (plainText_operandText o) (plainText_operandText last) (operandText_prefix o os) hlast

/-- The mnemonic ends at the first blank. -/
theorem takeWhile_name (m : Mnemonic) (os : List AsmOperand) :
    (mnemonicText m ++ printTail os).takeWhile (fun c => !isBlankChar c) = mnemonicText m := by
  have hname := (plainText_mnemonicText m).not_blank
  rw [List.takeWhile_append_of_pos (by simpa using hname)]
  cases os <;> simp [printTail, isBlankChar]

theorem dropWhile_name (m : Mnemonic) (os : List AsmOperand) :
    (mnemonicText m ++ printTail os).dropWhile (fun c => !isBlankChar c) = printTail os := by
  have hname := (plainText_mnemonicText m).not_blank
  rw [List.dropWhile_append_of_pos (by simpa using hname)]
  cases os <;> simp [printTail, isBlankChar]

/-- The operands of a line are read back, also when there are none. -/
theorem readOperands_line (os : List AsmOperand) :
    readOperands (if (operandsText os).isEmpty then [] else cutAt ',' (operandsText os)) = some os := by
  cases os with
  | nil => rfl
  | cons o os =>
    have hne : operandsText (o :: os) ≠ [] := fun h =>
      (plainText_operandText o).ne_nil (List.eq_nil_of_prefix_nil (h ▸ operandText_prefix o os))
    rw [if_neg (by simpa using hne), readOperands_operandsText]

/-- No mnemonic is written like the pseudo-command. -/
theorem mnemonicText_ne_dload (m : Mnemonic) : mnemonicText m ≠ ['D', 'L', 'O', 'A', 'D'] := by cases m <;> decide

/-- No two mnemonics are written alike. -/
theorem find_mnemonicText (m : Mnemonic) : Mnemonic.all.find? (mnemonicText · == mnemonicText m) = some m := by
  cases m <;> decide

/-- The line of a command is read as the command. -/
theorem readLine_printInstr {i : Instr} (h : i.wf = true) : readLine (printInstr i) = some [i] := by
  have hne : (printInstr i).isEmpty = false := by
    simp [printInstr_eq, (plainText_mnemonicText _).ne_nil]
  rw [readLine]
  simp only [takeWhile_printInstr, trimBlanks_printInstr, hne]
  simp only [printInstr_eq, takeWhile_name, dropWhile_name, trimBlanks_printTail, readOperands_line,
    mnemonicText_ne_dload, find_mnemonicText, instrOfText_asmOperands h]
  rfl

/-- Settles O6: the pieces of a printed line are its mnemonic and its operands, and each is read back. -/
theorem printedCommandsReadBack : Obligations.PrintedCommandsReadBack :=
  ⟨fun _ => readLine_printInstr, fun _ => rfl⟩

end Sys2Proof.Machine
end

section
/-!
PROOF. The commands of the field engine (R54 to R67): the tests each begins with, said once; what the loops of the
direct multiplication and of the generator test compute; and the result of each command.
-/

namespace Sys2Proof.Machine

/-! ## The tests before a field command (R55, R118) -/

theorem resultOfByte_eq (v : Byte) : resultOfByte v = BitVec.ofNat 32 v.toNat :=
  BitVec.eq_of_toNat_eq (by simp [resultOfByte])

/-- A success with a byte in RESULT is the claims' answer of its value. -/
theorem complete_byte (s t : State) (v : Byte) :
    complete s (.ok (t, resultOfByte v)) = .next (answerOk v.toNat t) := by
  rw [resultOfByte_eq]; rfl

section Tests

variable {s : State} {F : FieldCtx}

theorem complete_needField_none (h : s.field = none) (k : FieldCtx → Except Err (State × Result)) :
    complete s (needField s >>= k) = .next (answerErr 0x09#8 s) := by
  rw [needField_none h]; rfl

theorem complete_needField_some (h : s.field = some F) (k : FieldCtx → Except Err (State × Result)) :
    complete s (needField s >>= k) = complete s (k F) := by
  rw [needField_some h]; rfl

theorem complete_inField (x : Nat) (k : Byte → Except Err (State × Result)) :
    complete s (inField F x >>= k) =
      if x < 2 ^ F.w then complete s (k (BitVec.ofNat 8 x)) else .next (answerErr 0x0B#8 s) := by
  split
  · next h => rw [inField_of_lt h]; rfl
  · next h => rw [inField_of_ge (not_lt.1 h)]; rfl

/-- Two operands are tested one after the other, with the same error. -/
theorem complete_inField₂ (x y : Nat) (k : Byte → Byte → Except Err (State × Result)) :
    complete s (inField F x >>= fun u => inField F y >>= fun v => k u v) =
      if x < 2 ^ F.w ∧ y < 2 ^ F.w then complete s (k (BitVec.ofNat 8 x) (BitVec.ofNat 8 y))
      else .next (answerErr 0x0B#8 s) := by
  simp only [complete_inField, ite_and]

theorem complete_require {p : Prop} [Decidable p] (k : Unit → Except Err (State × Result)) :
    complete s (require p .indexOutOfRange >>= k) = if p then complete s (k ()) else .next (answerErr 0x0E#8 s) := by
  split
  · next h => rw [require_of h]; rfl
  · next h => rw [require_of_not h]; rfl

/-- An operand that is no element is reported, whichever of the two it is. -/
theorem complete_inField₂_of_ge {x y z : Nat} (k : FieldCtx → Byte → Byte → Except Err (State × Result))
    (hF : s.field = some F) (hz : z ∈ [x, y]) (hge : 2 ^ F.w ≤ z) :
    complete s (needField s >>= fun F => inField F x >>= fun u => inField F y >>= fun v => k F u v) =
      .next (answerErr 0x0B#8 s) := by
  rw [complete_needField_some hF, complete_inField₂, if_neg]
  rintro ⟨hx, hy⟩
  simp only [List.mem_cons, List.not_mem_nil, or_false] at hz
  omega

end Tests

/-- Settles O17: the field is the first test of these commands, and the scalar operands are the next. -/
theorem fieldAndOperandTests : Obligations.FieldAndOperandTests := by
  refine ⟨fun i s hi hs => ?_, fun i s F x hF hx hge => ?_⟩
  · cases i with
    | gfadd | gfsub | gfmuld | gfmult | gfdivt | isgen | mingen | allgen | rdpow | rdlog | mcauchy | mmulf =>
      exact complete_needField_none hs _
    | nop | reset | field | rdfld | mnew | mident | mcolv | mappend | mtovec | mrd | mwr | mdim => cases hi
    | dclr | dpush | rdout | rdolen | rsnew | rsenc | rsrdg | rsdim => cases hi
  · cases i with
    | gfadd | gfsub | gfmuld | gfmult | gfdivt => exact complete_inField₂_of_ge _ hF hx hge
    | isgen cand =>
      obtain rfl := List.mem_singleton.1 hx
      exact (complete_needField_some hF _).trans ((complete_inField _ _).trans (if_neg (not_lt.2 hge)))
    | nop | reset | field | mingen | allgen | rdpow | rdlog | rdfld | mnew | mident | mcolv | mcauchy => cases hx
    | mappend | mmulf | mtovec | mrd | mwr | mdim | dclr | dpush | rdout | rdolen => cases hx
    | rsnew | rsenc | rsrdg | rsdim => cases hx

/-- A command on two elements: `NoField`, then `OperandOutOfField`, then what `k` makes of the elements. -/
theorem binary_eq {s : State} {x y : Nat} {k : FieldCtx → Byte → Byte → Except Err (State × Result)}
    {a : FieldCtx → State}
    (h : ∀ F, s.field = some F → x < 2 ^ F.w → y < 2 ^ F.w →
      complete s (k F (BitVec.ofNat 8 x) (BitVec.ofNat 8 y)) = .next (a F)) :
    complete s (needField s >>= fun F => inField F x >>= fun u => inField F y >>= fun v => k F u v) = .next
      (match s.field with
       | none => answerErr 0x09#8 s
       | some F => if x < 2 ^ F.w ∧ y < 2 ^ F.w then a F else answerErr 0x0B#8 s) := by
  cases hF : s.field with
  | none => exact complete_needField_none hF _
  | some F =>
    rw [complete_needField_some hF, complete_inField₂]
    split
    · next hxy => simp [h F hF hxy.1 hxy.2, hxy]
    · next hxy => simp [hxy]

/-- An element is zero exactly when its byte is. -/
theorem ofNat_eq_zero_iff {F : FieldCtx} {x : Nat} (hw : F.w ≤ 8) (hx : x < 2 ^ F.w) :
    BitVec.ofNat 8 x = 0#8 ↔ x = 0 := by
  rw [← BitVec.toNat_inj, toNat_ofNat_element hw hx]; rfl

/-- Settles O18: the exclusive or of two bytes that hold the operands. -/
theorem addAndSubtractAreXor : Obligations.AddAndSubtractAreXor := by
  refine ⟨fun _ _ => rfl, fun _ _ => rfl, fun s x y hw => ⟨binary_eq fun F hF hx hy => ?_, rfl⟩⟩
  have hsum : (gfAdd (BitVec.ofNat 8 x) (BitVec.ofNat 8 y)).toNat = x ^^^ y := by
    rw [gfAdd, BitVec.toNat_xor, toNat_ofNat_element (hw F hF) hx, toNat_ofNat_element (hw F hF) hy]
  rw [← hsum]; exact complete_byte ..

/-! ## Doubling (R43) -/

/-- The overflow test reads bit `w - 1`. -/
theorem and_overflowFlag_eq_zero {w : Nat} (v : Byte) (hw : 1 ≤ w ∧ w ≤ 8) :
    v &&& overflowFlag w = 0#8 ↔ v.getLsbD (w - 1) = false := by
  have hflag : overflowFlag w = BitVec.twoPow 8 (w - 1) := BitVec.eq_of_toNat_eq (by simp [overflowFlag])
  rw [hflag, BitVec.and_twoPow]
  cases hbit : v.getLsbD (w - 1)
  · simp
  · have hne : BitVec.twoPow 8 (w - 1) ≠ 0#8 := by
      have : ∀ i < 8, BitVec.twoPow 8 i ≠ 0#8 := by decide
      exact this _ (by omega)
    simpa using hne

/-- A doubling in numbers (R43). -/
theorem gfDbl_toNat {w : Nat} (P v : Byte) (hw : 1 ≤ w ∧ w ≤ 8) :
    (gfDbl w P v).toNat =
      if v.toNat.testBit (w - 1) then (v.toNat <<< 1) % 256 ^^^ P.toNat else (v.toNat <<< 1) % 256 := by
  unfold gfDbl
  simp only [and_overflowFlag_eq_zero v hw, BitVec.getLsbD]
  cases v.toNat.testBit (w - 1) <;> simp

/-- With a well-formed polynomial byte the doubling of an element is an element: the polynomial clears the bit that
was shifted out of the field (R42, R43). -/
theorem gfDbl_lt {w : Nat} {P v : Byte} (hw : 1 ≤ w ∧ w ≤ 8) (hP : w = 8 ∨ P.toNat >>> w = 1)
    (hv : v.toNat < 2 ^ w) : (gfDbl w P v).toNat < 2 ^ w := by
  rcases hP with rfl | hP
  · exact BitVec.isLt _
  have hw7 : w < 8 := by
    by_contra h8
    have h256 : P.toNat < 2 ^ w := P.isLt.trans_le (Nat.pow_le_pow_right (by decide) (not_lt.1 h8))
    rw [Nat.shiftRight_eq_div_pow, Nat.div_eq_of_lt h256] at hP
    cases hP
  obtain ⟨m, rfl⟩ := Nat.exists_eq_add_one.2 hw.1
  have hfits : v.toNat <<< 1 < 2 ^ (m + 1 + 1) := by rw [Nat.shiftLeft_eq, pow_succ 2 (m + 1)]; omega
  have h256 : v.toNat <<< 1 < 256 := hfits.trans_le (Nat.pow_le_pow_right (n := 2) (j := 8) (by decide) (by omega))
  rw [gfDbl_toNat P v hw, Nat.mod_eq_of_lt h256, Nat.add_sub_cancel]
  split
  · next hbit =>
    have hhigh : (v.toNat <<< 1) >>> (m + 1) = 1 := by
      have hge := Nat.ge_two_pow_of_testBit hbit
      rw [Nat.shiftLeft_eq, Nat.shiftRight_eq_div_pow]
      exact Nat.div_eq_of_lt_le (by rw [pow_succ]; omega) (by rw [pow_succ] at hv ⊢; omega)
    have hclear : ((v.toNat <<< 1) ^^^ P.toNat) >>> (m + 1) = 0 := by
      rw [Nat.shiftRight_xor_distrib, hhigh, hP]; rfl
    rw [Nat.shiftRight_eq_div_pow] at hclear
    exact Nat.lt_of_div_eq_zero (Nat.two_pow_pos _) hclear
  · next hbit =>
    have : v.toNat < 2 ^ m := by
      by_contra hge
      exact hbit (Nat.testBit_of_two_pow_le_and_two_pow_add_one_gt (not_lt.1 hge) hv)
    rw [Nat.shiftLeft_eq, pow_succ]; omega

/-- Settles O19: the doubling in numbers, and that it stays in the field. -/
theorem doublingShiftsAndReduces : Obligations.DoublingShiftsAndReduces :=
  fun _ P v h1 h8 => ⟨gfDbl_toNat P v ⟨h1, h8⟩, gfDbl_lt ⟨h1, h8⟩⟩

/-! ## Multiplication and division (R44, R49, R50) -/

/-- The loop adds the doubled values selected by the bits from `i` upward. -/
theorem mulDirectLoop_eq_foldl (w : Nat) (P x y : Byte) (k i : Nat) (acc : Byte) :
    mulDirectLoop w P y k i ((gfDbl w P)^[i] x) acc =
      (List.range' i k).foldl (fun acc j => if y.getLsbD j then acc ^^^ (gfDbl w P)^[j] x else acc) acc := by
  induction k generalizing i acc with
  | zero => rfl
  | succ k ih =>
    rw [mulDirectLoop, List.range'_succ, List.foldl_cons, ← ih (i + 1), Function.iterate_succ_apply']

/-- Direct multiplication is the exclusive or of the doubled values selected by the bits of `y` (R44). -/
theorem gfMulDirect_eq_foldl (w : Nat) (P x y : Byte) :
    gfMulDirect w P x y =
      (List.range 8).foldl (fun acc i => if y.getLsbD i then acc ^^^ (gfDbl w P)^[i] x else acc) 0#8 := by
  rw [List.range_eq_range']
  exact mulDirectLoop_eq_foldl w P x y 8 0 0#8

/-- Settles O20: the byte of `y` has the low eight bits of `y`. -/
theorem directMultiplyIsShiftAndReduce : Obligations.DirectMultiplyIsShiftAndReduce := by
  refine ⟨fun _ _ => rfl, fun s x y => binary_eq fun F _ _ _ => ?_⟩
  have hbits : ∀ i ∈ List.range 8, (BitVec.ofNat 8 y).getLsbD i = y.testBit i := fun i hi => by
    rw [BitVec.getLsbD_ofNat, decide_eq_true (List.mem_range.1 hi), Bool.true_and]
  have hprod := gfMulDirect_eq_foldl F.w F.poly (BitVec.ofNat 8 x) (BitVec.ofNat 8 y)
  rw [List.foldl_ext _ _ _ fun acc i hi => by rw [hbits i hi]] at hprod
  rw [← hprod]; exact complete_byte ..

/-- Settles O21: the byte of an operand is zero exactly when the operand is. -/
theorem tableMultiplyAddsExponents : Obligations.TableMultiplyAddsExponents := by
  refine ⟨fun _ _ => rfl, fun s x y hw => binary_eq fun F hF hx hy => ?_⟩
  refine (complete_byte ..).trans ?_
  rw [gfMulTable]
  simp only [ofNat_eq_zero_iff (hw F hF) hx, ofNat_eq_zero_iff (hw F hF) hy, toNat_ofNat_element (hw F hF) hx,
    toNat_ofNat_element (hw F hF) hy]
  split <;> rfl

/-- The representative of a difference of exponents, without a negative number (R50). -/
theorem emod_sub_toNat (a b : Nat) {m : Nat} (hm : 0 < m) :
    (((a : Int) - (b : Int)) % (m : Int)).toNat = (a + (m - b % m)) % m := by
  have hb : b % m ≤ m := (Nat.mod_lt b hm).le
  have hsplit : ((a + (m - b % m) : Nat) : Int) = (a - b : Int) + m * (1 + (b / m : Nat)) := by
    have hdiv : ((m * (b / m) + b % m : Nat) : Int) = b := congrArg _ (Nat.div_add_mod b m)
    push_cast [Nat.cast_sub hb] at hdiv ⊢
    linarith
  rw [← Int.add_mul_emod_self_left _ _ (1 + (b / m : Nat)), ← hsplit, ← Int.natCast_mod, Int.toNat_natCast]

/-- Settles O22: the zero divisor comes first, and two different elements leave room for an exponent. -/
theorem tableDivideSubtractsExponents : Obligations.TableDivideSubtractsExponents := by
  refine ⟨fun _ _ => rfl, fun s x y hw => binary_eq fun F hF hx hy => ?_⟩
  have hx8 := toNat_ofNat_element (hw F hF) hx
  have hy8 := toNat_ofNat_element (hw F hF) hy
  by_cases hy0 : y = 0
  · subst hy0; rfl
  have hne : BitVec.ofNat 8 y ≠ 0#8 := (ofNat_eq_zero_iff (hw F hF) hy).not.2 hy0
  have hquot : gfQuot F (BitVec.ofNat 8 x) (BitVec.ofNat 8 y) = if x = 0 then 0#8 else
      F.powerAt (((F.logAt x).toNat + ((2 ^ F.w - 1) - (F.logAt y).toNat % (2 ^ F.w - 1))) % (2 ^ F.w - 1)) := by
    rw [gfQuot, logDiff, hx8, hy8, FieldCtx.count, elementCount, emod_sub_toNat _ _ (by omega)]
    simp only [ofNat_eq_zero_iff (hw F hF) hx]
  rw [gfDivTable_of_ne hne, hquot, if_neg hy0]
  refine (complete_byte ..).trans ?_
  split <;> rfl

/-! ## The generator test and the search (R45, R46) -/

/-- One more factor `c`. -/
def times (w : Nat) (P c v : Byte) : Byte := gfMulDirect w P v c

/-- Successive powers are iterated products. -/
theorem powersFrom_eq_iterate (w : Nat) (P c : Byte) (k : Nat) (v : Byte) :
    powersFrom w P c k v = List.iterate (times w P c) v k := by
  induction k generalizing v with
  | zero => rfl
  | succ k ih => rw [powersFrom, ih, List.iterate, times]

/-- The generator test, power by power (R45). -/
theorem isGenerator_iff_iterate {w : Nat} {P c : Byte} :
    isGenerator w P c = true ↔
      ∀ k < 2 ^ w - 1, (times w P c)^[k] c ≠ 0#8 ∧ ((times w P c)^[k] c).toNat < 2 ^ w ∧
        ∀ j < k, (times w P c)^[j] c ≠ (times w P c)^[k] c := by
  simp only [isGenerator_iff, powersOf, powersFrom_eq_iterate, List.Nodup, List.pairwise_iff_getElem,
    List.forall_mem_iff_getElem, List.getElem_iterate, List.length_iterate, elementCount]
  constructor
  · rintro ⟨hdiff, hrange⟩ k hk
    exact ⟨(hrange k hk).1, (hrange k hk).2, fun j hj => hdiff j k (by omega) hk hj⟩
  · intro h
    exact ⟨fun j k _ hk hj => (h k hk).2.2 j hj, fun k hk => ⟨(h k hk).1, (h k hk).2.1⟩⟩

/-- Settles O23: the walk of the test meets the powers in order. -/
theorem isgenTestsTheWholeCycle : Obligations.IsgenTestsTheWholeCycle := by
  refine ⟨fun _ => rfl, fun s F cand hF _ hc => ?_⟩
  have hexec : exec (.isgen cand) s =
      .next (answerOk (if isGenerator F.w F.poly (BitVec.ofNat 8 cand) then 1 else 0) s) := by
    refine (complete_needField_some hF _).trans ((complete_inField _ _).trans ((if_pos hc).trans ?_))
    cases isGenerator F.w F.poly (BitVec.ofNat 8 cand) <;> rfl
  intro power
  rw [hexec]
  refine ⟨fun h => ?_, fun h => ?_⟩
  · rw [if_pos (isGenerator_iff_iterate.2 h)]
  · rw [if_neg (isGenerator_iff_iterate.not.2 h)]

/-- The search gives the least candidate that qualifies (R46). -/
theorem findGenerator_of_least {w g : Nat} {P : Byte} (h2 : 2 ≤ g) (hg : g < 2 ^ w)
    (htest : isGenerator w P (BitVec.ofNat 8 g) = true)
    (hleast : ∀ h, 2 ≤ h → h < g → isGenerator w P (BitVec.ofNat 8 h) = false) :
    findGenerator w P = .ok (BitVec.ofNat 8 g) := by
  have hfind : (List.range' 2 (elementCount w - 2)).find? (isGenerator w P ∘ BitVec.ofNat 8) = some g :=
    List.find?_range'_eq_some.2 ⟨htest, List.mem_range'_1.2 ⟨h2, by unfold elementCount; omega⟩,
      fun j h2j hj => by simp [hleast j h2j hj]⟩
  rw [findGenerator_ok, candidates, List.find?_map, hfind]; rfl

/-- The generator of a constructed field is the one the search gives (R56). -/
theorem FieldCtx.Inv.findGenerator_eq {F : FieldCtx} (h : F.Inv) : findGenerator F.w F.poly = .ok (F.powerAt 1) := by
  obtain ⟨-, -, hfind, -⟩ := constructField_ok.1 h.constructed
  exact hfind

/-- `MINGEN` answers what the search gives (R63). -/
theorem exec_mingen {s : State} {F : FieldCtx} {g : Byte} (hF : s.field = some F)
    (h : findGenerator F.w F.poly = .ok g) : exec .mingen s = .next (answerOk g.toNat s) := by
  refine (complete_needField_some hF _).trans ?_
  rw [h]; exact complete_byte ..

/-- Settles O24: the search gives the least candidate, and in a constructed field it gave `POWER[1]`. -/
theorem mingenAnswersSmallestGenerator : Obligations.MingenAnswersSmallestGenerator := by
  refine ⟨rfl, fun s F g hF hw h2 hg htest hleast => ?_, fun s F hF hinv => exec_mingen hF hinv.findGenerator_eq⟩
  rw [exec_mingen hF (findGenerator_of_least h2 hg htest hleast), toNat_ofNat_element hw hg]

/-- The candidates ascend (R46). -/
theorem candidates_ascending {w : Nat} (hw : w ≤ 8) : (candidates w).Pairwise fun u v => u.toNat < v.toNat := by
  have h256 := elementCount_le hw
  refine List.pairwise_map.2 ((List.pairwise_lt_range' 1).imp_of_mem fun {a b} ha hb hab => ?_)
  rw [List.mem_range'_1] at ha hb
  rwa [toNat_ofNat_element hw (by omega), toNat_ofNat_element hw (by omega)]

/-- Settles O25: the list is the candidates that pass the test, whose first is the search's result. -/
theorem allgenListsGeneratorsAscending : Obligations.AllgenListsGeneratorsAscending := by
  refine ⟨rfl, fun s hs => complete_needField_none hs _, fun s F hF hw => ⟨allGenerators F.w F.poly, ?_, ?_, ?_, ?_⟩⟩
  · exact complete_needField_some hF _
  · exact (candidates_ascending hw).filter _
  · intro v
    have := elementCount_pos F.w
    rw [allGenerators, List.mem_filter, mem_candidates hw, elementCount, and_assoc,
      Nat.lt_iff_le_pred (Nat.two_pow_pos _)]
  · intro hinv
    rw [allGenerators, List.head?_filter]
    exact findGenerator_ok.1 hinv.findGenerator_eq

/-! ## Construction (R54, R56) -/

theorem exec_field_ok {s : State} {w : Nat} {P g : Byte} {F : FieldCtx} (h : constructField w P = .ok (F, g)) :
    exec (.field w P) s = .next (answerOk g.toNat (s.putField F)) := by
  simp only [exec, execField, h]; exact complete_byte ..

theorem exec_field_error {s : State} {w : Nat} {P : Byte} {e : Err} (h : constructField w P = .error e) :
    exec (.field w P) s = .next (answerErr e.code s) := by
  simp only [exec, execField, h]; rfl

/-- A legal order without a generator (R46). -/
theorem constructField_noGenerator {w : Nat} {P : Byte} (hw : 1 ≤ w ∧ w ≤ 8)
    (hnone : ∀ c ∈ candidates w, isGenerator w P c = false) : constructField w P = .error .noGeneratorFound :=
  constructField_error.2 (.inr ⟨hw, findGenerator_error.2 ⟨hnone, rfl⟩⟩)

/-- Settles O16: there is no candidate of order 1. -/
theorem orderOneIsNeverConstructed : Obligations.OrderOneIsNeverConstructed := by
  refine ⟨fun P s => ?_, fun s F hs hF h1 => ?_⟩
  · exact exec_field_error (constructField_noGenerator (by decide) (List.forall_mem_nil _))
  · have := (hs.field F hF).order
    omega

/-- Settles O15: the tables of the least generator are those of R47. -/
theorem fieldConstructsFromSmallestGenerator : Obligations.FieldConstructsFromSmallestGenerator := by
  refine ⟨fun _ _ => rfl, fun s w P => ⟨fun hw => ?_, fun h1 h8 hnone => ?_, fun g h1 h8 h2 hg htest hleast => ?_⟩⟩
  · exact exec_field_error (constructField_error.2 (.inl ⟨hw, rfl⟩))
  · refine exec_field_error (constructField_noGenerator ⟨h1, h8⟩ fun c hc => ?_)
    obtain ⟨hc2, hlt⟩ := (mem_candidates h8 c).1 hc
    simpa using hnone c.toNat hc2 (Nat.le_sub_one_of_lt hlt)
  · have hlt : g < 2 ^ w := by omega
    have hfind := findGenerator_of_least h2 hlt htest hleast
    have hgen := generates_of_findGenerator h8 hfind
    have hbuild : constructField w P = .ok (buildTables w P (BitVec.ofNat 8 g), BitVec.ofNat 8 g) :=
      constructField_ok.2 ⟨h1, h8, hfind, rfl⟩
    obtain ⟨hpower, hlog⟩ := buildTables_wf w P (BitVec.ofNat 8 g)
    refine ⟨buildTables w P (BitVec.ofNat 8 g), ?_, rfl, rfl, hpower, hlog, buildTables_powerAt_zero ..,
      powerAt_one hgen, fun i hi hiw => ?_, logAt_one hgen, fun i hi hiw => logAt_powerAt hgen hi ?_, ?_⟩
    · rw [exec_field_ok hbuild, toNat_ofNat_element h8 hlt]; rfl
    · obtain ⟨i, rfl⟩ := Nat.exists_eq_add_one.2 hi
      exact buildTables_powerAt_succ _ _ _ (by unfold elementCount; omega)
    · unfold elementCount; omega
    · rintro rfl rfl
      exact (Prod.mk.inj (Except.ok.inj (hbuild.symm.trans coderField_constructed))).1

/-! ## Reading the field (R65 to R67) -/

theorem exec_rdpow {s : State} {F : FieldCtx} (hF : s.field = some F) (i : Nat) :
    exec (.rdpow i) s = .next (if i < 2 ^ F.w then answerOk (F.powerAt i).toNat s else answerErr 0x0E#8 s) := by
  refine (complete_needField_some hF _).trans ((complete_require _).trans ?_)
  rw [apply_ite Host.Outcome.next, ← complete_byte s]; rfl

theorem exec_rdlog {s : State} {F : FieldCtx} (hF : s.field = some F) (e : Nat) :
    exec (.rdlog e) s =
      .next (if e = 0 ∨ 2 ^ F.w ≤ e then answerErr 0x0E#8 s else answerOk (F.logAt e).toNat s) := by
  refine (complete_needField_some hF _).trans ((complete_require _).trans ?_)
  rw [apply_ite Host.Outcome.next, ← complete_byte s]
  by_cases h : e = 0 ∨ 2 ^ F.w ≤ e
  · rw [if_pos h, if_neg fun hin => h.elim hin.1 hin.2.not_ge]
  · rw [not_or, not_le] at h
    rw [if_pos (show e ≠ 0 ∧ e < F.count from h), if_neg (by omega)]; rfl

/-- Settles O26: the corner cases are the ends of `POWER` and the logarithm of 1. -/
theorem tableReads : Obligations.TableReads := by
  refine ⟨fun _ => rfl, fun _ => rfl, fun s i => ?_, fun s e => ?_, fun s F hF hinv => ?_⟩
  · cases hF : s.field with
    | none => exact complete_needField_none hF _
    | some F => exact exec_rdpow hF i
  · cases hF : s.field with
    | none => exact complete_needField_none hF _
    | some F => exact exec_rdlog hF e
  · obtain ⟨hfirst, hlast⟩ := hinv.powerEnds
    have h4 : 4 ≤ 2 ^ F.w := four_le_elementCount hinv.order.1
    rw [exec_rdpow hF, exec_rdpow hF, exec_rdlog hF, if_pos (by omega), if_pos (by omega), if_neg (by omega), hfirst,
      hinv.logOne, show F.powerAt (2 ^ F.w - 1) = 1#8 from hlast]
    exact ⟨rfl, rfl, rfl⟩

/-- The three fields of `RDFLD`'s answer do not overlap (R67). -/
theorem resultOfField_eq {F : FieldCtx} (hw : F.w ≤ 8) :
    resultOfField F = BitVec.ofNat 32 (2 ^ 31 + 2 ^ 8 * F.w + F.poly.toNat) := by
  have hP : F.poly.toNat < 2 ^ 8 := F.poly.isLt
  have hlow : F.w <<< 8 + F.poly.toNat < 2 ^ 31 := by rw [Nat.shiftLeft_eq]; omega
  have hsum : 2 ^ 31 + 2 ^ 8 * F.w + F.poly.toNat = 1 <<< 31 ||| (F.w <<< 8 ||| F.poly.toNat) := by
    rw [← Nat.shiftLeft_add_eq_or_of_lt hP, ← Nat.shiftLeft_add_eq_or_of_lt hlow, Nat.shiftLeft_eq, Nat.shiftLeft_eq]
    omega
  have hshift : ∀ w ≤ 8, BitVec.ofNat 32 (w <<< 8) = BitVec.ofNat 32 w <<< 8 := by decide
  rw [hsum, ← Nat.or_assoc, BitVec.ofNat_or, BitVec.ofNat_or, ← resultOfByte_eq, hshift F.w hw]; rfl

/-- Settles O27: the fields of the answer add up. -/
theorem rdfldReadsTheDescriptor : Obligations.RdfldReadsTheDescriptor := by
  refine ⟨rfl, fun s hw => ?_⟩
  cases hF : s.field with
  | none => simp only [exec, execRdfld, hF]; rfl
  | some F =>
    simp only [exec, execRdfld, hF, Option.map_some, Option.getD_some, resultOfField_eq (hw F hF)]; rfl

end Sys2Proof.Machine
end

section
/-!
PROOF. A constructed field is a field (R51, R52). Multiplying by `y` is a sum of repeated doublings, so it respects sums
and any two such multiplications commute; hence `POWER[i] · x` is `x` multiplied `i` times by the generator, and the
tables multiply by adding exponents.
-/

namespace Sys2Proof.Machine

/-! ## Direct multiplication respects sums and commutes (R43, R44) -/

section Direct

variable {w : Nat} {P : Byte} (hw : 1 ≤ w ∧ w ≤ 8)

/-- A map that respects sums and doublings respects the loop of R44. -/
theorem map_mulDirectLoop {f : Byte → Byte} (hxor : ∀ u v, f (u ^^^ v) = f u ^^^ f v)
    (hdbl : ∀ v, f (gfDbl w P v) = gfDbl w P (f v)) (y : Byte) (k i : Nat) (p acc : Byte) :
    f (mulDirectLoop w P y k i p acc) = mulDirectLoop w P y k i (f p) (f acc) := by
  induction k generalizing i p acc with
  | zero => rfl
  | succ k ih => rw [mulDirectLoop, mulDirectLoop, ih, hdbl, apply_ite f, hxor]

include hw

theorem gfDbl_eq (v : Byte) : gfDbl w P v = (v <<< 1) ^^^ (if v.getLsbD (w - 1) then P else 0#8) := by
  simp only [gfDbl, and_overflowFlag_eq_zero v hw]
  cases v.getLsbD (w - 1) <;> simp

theorem gfDbl_xor (u v : Byte) : gfDbl w P (u ^^^ v) = gfDbl w P u ^^^ gfDbl w P v := by
  have hpoly : (if (u ^^^ v).getLsbD (w - 1) then P else 0#8) =
      (if u.getLsbD (w - 1) then P else 0#8) ^^^ (if v.getLsbD (w - 1) then P else 0#8) := by
    rw [BitVec.getLsbD_xor]
    cases u.getLsbD (w - 1) <;> cases v.getLsbD (w - 1) <;> simp
  rw [gfDbl_eq hw, gfDbl_eq hw, gfDbl_eq hw, BitVec.shiftLeft_xor_distrib, hpoly]
  ac_rfl

theorem mulDirectLoop_xor (y : Byte) (k i : Nat) (p q a b : Byte) :
    mulDirectLoop w P y k i (p ^^^ q) (a ^^^ b) = mulDirectLoop w P y k i p a ^^^ mulDirectLoop w P y k i q b := by
  induction k generalizing i p q a b with
  | zero => rfl
  | succ k ih =>
    have hacc : (if y.getLsbD i then (a ^^^ b) ^^^ (p ^^^ q) else a ^^^ b) =
        (if y.getLsbD i then a ^^^ p else a) ^^^ (if y.getLsbD i then b ^^^ q else b) := by
      split
      · ac_rfl
      · rfl
    rw [mulDirectLoop, mulDirectLoop, mulDirectLoop, gfDbl_xor hw, hacc, ih]

/-- `(u + v) · y = u · y + v · y`. -/
theorem gfMulDirect_xor_left (u v y : Byte) :
    gfMulDirect w P (u ^^^ v) y = gfMulDirect w P u y ^^^ gfMulDirect w P v y :=
  mulDirectLoop_xor hw y 8 0 u v 0#8 0#8

/-- A factor may be doubled before or after. -/
theorem gfMulDirect_gfDbl (x y : Byte) : gfMulDirect w P (gfDbl w P x) y = gfDbl w P (gfMulDirect w P x y) := by
  rw [gfMulDirect, gfMulDirect, map_mulDirectLoop (gfDbl_xor hw) (fun _ => rfl), gfDbl_zero]

/-- `(x · y) · z = (x · z) · y`, for all bytes. -/
theorem gfMulDirect_right_comm (x y z : Byte) :
    gfMulDirect w P (gfMulDirect w P x y) z = gfMulDirect w P (gfMulDirect w P x z) y := by
  have h := map_mulDirectLoop (f := fun v => gfMulDirect w P v z) (fun u v => gfMulDirect_xor_left hw u v z)
    (fun v => gfMulDirect_gfDbl hw v z) y 8 0 x 0#8
  rwa [gfMulDirect_zero_left] at h

/-- With `m` factors `c`, a product is the other factor with `m` more factors `c`. -/
theorem iterate_times_gfMulDirect (c : Byte) {x : Byte} (hx : x.toNat < elementCount w) (m : Nat) :
    gfMulDirect w P ((times w P c)^[m] 1#8) x = (times w P c)^[m] x := by
  have hcomm : Function.Commute (fun v => gfMulDirect w P v x) (times w P c) := fun v =>
    gfMulDirect_right_comm hw v c x
  rw [(hcomm.iterate_right m).eq, gfMulDirect_one_left P hw.2 hw.1 hx]

end Direct

/-! ## The tables of a constructed field (R12, R47) -/

/-- `POWER[i]` is `i` factors of the generator. -/
theorem buildTables_powerAt_eq_iterate (w : Nat) (P g : Byte) {i : Nat} (hi : i < elementCount w) :
    (buildTables w P g).powerAt i = (times w P g)^[i] 1#8 := by
  induction i with
  | zero => exact buildTables_powerAt_zero w P g
  | succ i ih => rw [buildTables_powerAt_succ w P g hi, ih (by omega), Function.iterate_succ_apply', times]

/-- One more factor of the generator. -/
abbrev FieldCtx.step (F : FieldCtx) : Byte → Byte := times F.w F.poly (F.powerAt 1)

namespace FieldCtx.Inv

variable {F : FieldCtx} (h : F.Inv)
include h

theorem order_bounds : 1 ≤ F.w ∧ F.w ≤ 8 := ⟨by have := h.order; omega, h.order.2⟩

theorem four_le_count : 4 ≤ F.count := four_le_elementCount h.order.1

theorem powerAt_eq_iterate {i : Nat} (hi : i < F.count) : F.powerAt i = F.step^[i] 1#8 := by
  obtain ⟨-, -, -, hF⟩ := constructField_ok.1 h.constructed
  have hpow := buildTables_powerAt_eq_iterate F.w F.poly (F.powerAt 1) hi
  rwa [← hF] at hpow

/-- `POWER[i] · x` is `x` with `i` more factors of the generator. -/
theorem powerAt_gfMulDirect {i : Nat} {x : Byte} (hi : i < F.count) (hx : x.toNat < F.count) :
    gfMulDirect F.w F.poly (F.powerAt i) x = F.step^[i] x := by
  rw [h.powerAt_eq_iterate hi, iterate_times_gfMulDirect h.order_bounds _ hx]

/-- The powers of the generator repeat after `n - 1` factors (R12). -/
theorem step_periodic : Function.IsPeriodicPt F.step (F.count - 1) 1#8 := by
  have := h.four_le_count
  rw [Function.IsPeriodicPt, Function.IsFixedPt, ← h.powerAt_eq_iterate (by omega), h.powerEnds.2]

theorem mod_lt_count (k : Nat) : k % (F.count - 1) < F.count := by
  have := h.four_le_count
  exact (Nat.mod_lt k (by omega)).trans (by omega)

theorem powerAt_mod (k : Nat) : F.powerAt (k % (F.count - 1)) = F.step^[k] 1#8 := by
  rw [h.powerAt_eq_iterate (h.mod_lt_count k), h.step_periodic.iterate_mod_apply]

theorem powerAt_ne_zero {i : Nat} (hi : i < F.count) : F.powerAt i ≠ 0#8 :=
  BitVec.toNat_ne_iff_ne.1 (Nat.ne_of_gt (h.powerRange i hi).1)

/-- Every nonzero element is the power its logarithm says, and the logarithm is at most `n - 2` (R12). -/
theorem powerAt_logAt_of_ne {x : Byte} (hx0 : x ≠ 0#8) (hx : x.toNat < F.count) :
    F.powerAt (F.logAt x.toNat).toNat = x ∧ (F.logAt x.toNat).toNat ≤ F.count - 2 := by
  have : x.toNat ≠ 0 := BitVec.toNat_ne_iff_ne.2 hx0
  obtain ⟨hpow, hle⟩ := h.powerOfLog x.toNat (by omega) hx
  exact ⟨BitVec.eq_of_toNat_eq hpow, hle⟩

/-! ## Multiplication by the tables (R51) -/

/-- The tables multiply as R44 does: the exponents add up. -/
theorem gfMulTable_eq_gfMulDirect {x y : Byte} (hx : x.toNat < F.count) (hy : y.toNat < F.count) :
    gfMulTable F x y = gfMulDirect F.w F.poly x y := by
  by_cases hx0 : x = 0#8
  · simp [hx0]
  by_cases hy0 : y = 0#8
  · simp [hy0]
  have h4 := h.four_le_count
  obtain ⟨hxpow, hxlog⟩ := h.powerAt_logAt_of_ne hx0 hx
  obtain ⟨hypow, hylog⟩ := h.powerAt_logAt_of_ne hy0 hy
  rw [gfMulTable, if_neg (by simp [hx0, hy0]), h.powerAt_mod]
  calc F.step^[(F.logAt x.toNat).toNat + (F.logAt y.toNat).toNat] 1#8
      = F.step^[(F.logAt x.toNat).toNat] (F.powerAt (F.logAt y.toNat).toNat) := by
        rw [Function.iterate_add_apply, h.powerAt_eq_iterate (by omega)]
    _ = gfMulDirect F.w F.poly (F.powerAt (F.logAt x.toNat).toNat) y := by
        rw [hypow, h.powerAt_gfMulDirect (by omega) hy]
    _ = gfMulDirect F.w F.poly x y := by rw [hxpow]

theorem gfMulTable_ne_zero {x y : Byte} (hx : x ≠ 0#8) (hy : y ≠ 0#8) : gfMulTable F x y ≠ 0#8 := by
  rw [gfMulTable, if_neg (by simp [hx, hy])]
  exact h.powerAt_ne_zero (h.mod_lt_count _)

theorem gfMulTable_lt (x y : Byte) : (gfMulTable F x y).toNat < F.count := by
  rw [gfMulTable]
  split
  · exact elementCount_pos F.w
  · exact (h.powerRange _ (h.mod_lt_count _)).2

end FieldCtx.Inv

/-- Settles O29: both commands make the same tests, and then the exponents add up. -/
theorem tableMultiplyEqualsDirect : Obligations.TableMultiplyEqualsDirect := by
  intro s F x y hF hinv
  refine ((complete_needField_some hF _).trans (complete_inField₂ ..)).trans
    (Eq.symm ((complete_needField_some hF _).trans ((complete_inField₂ ..).trans ?_)))
  refine if_ctx_congr Iff.rfl (fun ⟨hx, hy⟩ => ?_) fun _ => rfl
  rw [hinv.gfMulTable_eq_gfMulDirect]
  · rwa [toNat_ofNat_element hinv.order.2 hx]
  · rwa [toNat_ofNat_element hinv.order.2 hy]

/-! ## The laws (R52) -/

theorem gfMulTable_comm (F : FieldCtx) (x y : Byte) : gfMulTable F x y = gfMulTable F y x := by
  simp only [gfMulTable, or_comm, Nat.add_comm]

theorem gfAdd_lt {F : FieldCtx} {x y : Byte} (hx : x.toNat < F.count) (hy : y.toNat < F.count) :
    (gfAdd x y).toNat < F.count := by
  rw [gfAdd, BitVec.toNat_xor]
  exact Nat.xor_lt_two_pow hx hy

namespace FieldCtx.Inv

variable {F : FieldCtx} (h : F.Inv) {x y z : Byte}
include h

theorem gfMulTable_one (hx : x.toNat < F.count) : gfMulTable F x 1#8 = x := by
  have h4 := h.four_le_count
  have h1 : (1#8 : Byte).toNat < F.count := by simp; omega
  rw [gfMulTable_comm, h.gfMulTable_eq_gfMulDirect h1 hx, gfMulDirect_one_left _ h.order.2 h.order_bounds.1 hx]

/-- `(x · y) · z = (y · x) · z = (y · z) · x = x · (y · z)`. -/
theorem gfMulTable_assoc (hx : x.toNat < F.count) (hy : y.toNat < F.count) (hz : z.toNat < F.count) :
    gfMulTable F (gfMulTable F x y) z = gfMulTable F x (gfMulTable F y z) := by
  rw [gfMulTable_comm F x y, gfMulTable_comm F x (gfMulTable F y z),
    h.gfMulTable_eq_gfMulDirect (h.gfMulTable_lt y x) hz, h.gfMulTable_eq_gfMulDirect (h.gfMulTable_lt y z) hx,
    h.gfMulTable_eq_gfMulDirect hy hx, h.gfMulTable_eq_gfMulDirect hy hz, gfMulDirect_right_comm h.order_bounds]

theorem gfMulTable_gfAdd (hx : x.toNat < F.count) (hy : y.toNat < F.count) (hz : z.toNat < F.count) :
    gfMulTable F x (gfAdd y z) = gfAdd (gfMulTable F x y) (gfMulTable F x z) := by
  rw [gfMulTable_comm F x, gfMulTable_comm F x, gfMulTable_comm F x,
    h.gfMulTable_eq_gfMulDirect (gfAdd_lt hy hz) hx, h.gfMulTable_eq_gfMulDirect hy hx,
    h.gfMulTable_eq_gfMulDirect hz hx]
  exact gfMulDirect_xor_left h.order_bounds y z x

/-- A quotient is the power at the difference of the exponents, taken upward (R50). -/
theorem gfQuot_eq (hx0 : x ≠ 0#8) (hy0 : y ≠ 0#8) (hy : y.toNat < F.count) :
    gfQuot F x y = F.step^[(F.logAt x.toNat).toNat + (F.count - 1 - (F.logAt y.toNat).toNat)] 1#8 := by
  have h4 := h.four_le_count
  obtain ⟨-, hylog⟩ := h.powerAt_logAt_of_ne hy0 hy
  rw [gfQuot, if_neg hx0, logDiff, emod_sub_toNat _ _ (by omega), h.powerAt_mod, Nat.mod_eq_of_lt (by omega)]

theorem gfQuot_lt (x y : Byte) : (gfQuot F x y).toNat < F.count := by
  have h4 := h.four_le_count
  rw [gfQuot]
  split
  · exact elementCount_pos F.w
  · rw [logDiff, emod_sub_toNat _ _ (by omega)]
    exact (h.powerRange _ (h.mod_lt_count _)).2

/-- `(x / y) · y = x`: the exponent of `y` goes up again. -/
theorem gfMulTable_gfQuot (hx : x.toNat < F.count) (hy0 : y ≠ 0#8) (hy : y.toNat < F.count) :
    gfMulTable F (gfQuot F x y) y = x := by
  by_cases hx0 : x = 0#8
  · simp [hx0, gfQuot]
  have h4 := h.four_le_count
  obtain ⟨hxpow, hxlog⟩ := h.powerAt_logAt_of_ne hx0 hx
  obtain ⟨hypow, hylog⟩ := h.powerAt_logAt_of_ne hy0 hy
  have hround : (F.logAt y.toNat).toNat + ((F.logAt x.toNat).toNat + (F.count - 1 - (F.logAt y.toNat).toNat)) =
      (F.logAt x.toNat).toNat + (F.count - 1) := by omega
  calc gfMulTable F (gfQuot F x y) y
      = gfMulDirect F.w F.poly (F.powerAt (F.logAt y.toNat).toNat) (gfQuot F x y) := by
        rw [gfMulTable_comm, h.gfMulTable_eq_gfMulDirect hy (h.gfQuot_lt x y), hypow]
    _ = F.step^[(F.logAt x.toNat).toNat + (F.count - 1)] 1#8 := by
        rw [h.powerAt_gfMulDirect (by omega) (h.gfQuot_lt x y), h.gfQuot_eq hx0 hy0 hy, ← Function.iterate_add_apply,
          hround]
    _ = x := by rw [Function.iterate_add_apply, h.step_periodic.eq, ← h.powerAt_eq_iterate (by omega), hxpow]

theorem gfQuot_self (hx0 : x ≠ 0#8) : gfQuot F x x = 1#8 := by
  simp [gfQuot, hx0, logDiff, h.powerEnds.1]

/-- `x / 1 = (x / 1) · 1 = x`. -/
theorem gfQuot_one (hx : x.toNat < F.count) : gfQuot F x 1#8 = x := by
  have h4 := h.four_le_count
  rw [← h.gfMulTable_one (h.gfQuot_lt x 1#8), h.gfMulTable_gfQuot hx (by decide) (by simp; omega)]

end FieldCtx.Inv

/-- Settles O30, by the laws above. -/
theorem fieldArithmeticLaws : Obligations.FieldArithmeticLaws := by
  intro F x y z h hx hy hz
  refine ⟨BitVec.xor_self, BitVec.xor_zero, gfMulTable_comm F x y, h.gfMulTable_assoc hx hy hz,
    h.gfMulTable_gfAdd hx hy hz, h.gfMulTable_one hx, h.gfMulTable_ne_zero, fun hx0 => ?_, fun hy0 => ?_, ?_,
    gfDivTable_zero F x⟩
  · rw [gfDivTable_of_ne hx0, h.gfQuot_self hx0]
  · exact ⟨gfQuot F x y, gfDivTable_of_ne hy0, h.gfMulTable_gfQuot hx hy0 hy⟩
  · rw [gfDivTable_of_ne (by decide), h.gfQuot_one hx]

end Sys2Proof.Machine
end

section
/-!
PROOF. The constructible fields (R53). A candidate is a generator iff its order in the multiplication is `2^w - 1`,
which a few powers decide; and a polynomial that splits has two nonzero elements whose product is zero, which no
constructed field has.
-/

namespace Sys2Proof.Machine

/-! ## Powers, and the order of a candidate -/

/-- `acc` times `b` to the power `e`, for `e < 2^k`, by repeated squaring. -/
def powLoop (w : Nat) (P : Byte) : Nat → Nat → Byte → Byte → Byte
  | 0, _, _, acc => acc
  | k + 1, e, b, acc =>
    powLoop w P k (e / 2) (gfMulDirect w P b b) (if e % 2 = 1 then gfMulDirect w P acc b else acc)

/-- `c` to the power `e`, for `e < 256`. -/
def gfPow (w : Nat) (P c : Byte) (e : Nat) : Byte := powLoop w P 8 e c 1#8

/-- The proper divisors of `2^w - 1` that divide no other; 1 alone when `2^w - 1` is prime. -/
def maximalDivisors : Nat → List Nat
  | 4 => [5, 3]
  | 6 => [21, 9]
  | 8 => [85, 51, 15]
  | _ => [1]

/-- The powers that decide whether the order of `c` is `2^w - 1`. -/
def HasFullOrder (w : Nat) (P c : Byte) : Prop :=
  gfPow w P c (2 ^ w - 1) = 1#8 ∧ ∀ d ∈ maximalDivisors w, gfPow w P c d ≠ 1#8

theorem maximalDivisors_lt : ∀ w ≤ 8, 2 ≤ w → ∀ d ∈ maximalDivisors w, 0 < d ∧ d < 2 ^ w - 1 := by decide

theorem exists_maximalDivisor :
    ∀ w ≤ 8, 2 ≤ w → ∀ m < 2 ^ w - 1, m ∣ 2 ^ w - 1 → ∃ d ∈ maximalDivisors w, m ∣ d := by
  decide +kernel

/-- A generator's powers return to 1 after `2^w - 1` factors, and not before. -/
theorem minimalPeriod_of_isGenerator {w : Nat} {P c : Byte} (hw : 2 ≤ w ∧ w ≤ 8) (hc : c.toNat < 2 ^ w)
    (h : isGenerator w P c = true) : Function.minimalPeriod (times w P c) 1#8 = 2 ^ w - 1 := by
  have hgen : Generates w P c := ⟨hw, hc, h⟩
  have h4 : 4 ≤ 2 ^ w := four_le_elementCount hw.1
  have hpow : ∀ i < 2 ^ w, (buildTables w P c).powerAt i = (times w P c)^[i] 1#8 := fun _ hi =>
    buildTables_powerAt_eq_iterate w P c hi
  have hlast : Function.IsPeriodicPt (times w P c) (2 ^ w - 1) 1#8 := by
    rw [Function.IsPeriodicPt, Function.IsFixedPt, ← hpow _ (by omega)]
    exact powerAt_last hgen
  have hlt : 2 ^ w - 1 < elementCount w := Nat.sub_lt (Nat.two_pow_pos w) Nat.one_pos
  have hle := hlast.minimalPeriod_le (by omega)
  have hpos := hlast.minimalPeriod_pos (by omega)
  refine powerAt_injective hgen hpos (hle.trans_lt hlt) (by omega) hlt ?_
  rw [hpow _ (by omega), hpow _ (by omega), hlast.eq]
  exact Function.isPeriodicPt_minimalPeriod _ _

section Order

variable {w : Nat} {P c : Byte} (hw : 2 ≤ w ∧ w ≤ 8) (hP : w = 8 ∨ P.toNat >>> w = 1)
include hw hP

theorem mulDirectLoop_lt {p acc : Byte} (y : Byte) (k i : Nat) (hp : p.toNat < 2 ^ w) (hacc : acc.toNat < 2 ^ w) :
    (mulDirectLoop w P y k i p acc).toNat < 2 ^ w := by
  induction k generalizing i p acc with
  | zero => exact hacc
  | succ k ih =>
    refine ih (i + 1) (gfDbl_lt ⟨by omega, hw.2⟩ hP hp) ?_
    split
    · rw [BitVec.toNat_xor]; exact Nat.xor_lt_two_pow hacc hp
    · exact hacc

/-- With a well-formed polynomial byte, an element times any byte is an element (R42). -/
theorem gfMulDirect_lt {x : Byte} (y : Byte) (hx : x.toNat < 2 ^ w) : (gfMulDirect w P x y).toNat < 2 ^ w :=
  mulDirectLoop_lt hw hP y 8 0 hx (Nat.two_pow_pos w)

theorem iterate_times_lt (c : Byte) (m : Nat) : ((times w P c)^[m] 1#8).toNat < 2 ^ w := by
  induction m with
  | zero => exact Nat.one_lt_two_pow (by omega)
  | succ m ih => rw [Function.iterate_succ_apply']; exact gfMulDirect_lt hw hP c ih

/-- Exponents add up. -/
theorem gfMulDirect_iterate_times (c : Byte) (m n : Nat) :
    gfMulDirect w P ((times w P c)^[m] 1#8) ((times w P c)^[n] 1#8) = (times w P c)^[m + n] 1#8 := by
  rw [iterate_times_gfMulDirect ⟨by omega, hw.2⟩ c (iterate_times_lt hw hP c n), Function.iterate_add_apply]

/-- Repeated squaring computes the power. -/
theorem powLoop_eq {k e : Nat} (he : e < 2 ^ k) (m n : Nat) :
    powLoop w P k e ((times w P c)^[m] 1#8) ((times w P c)^[n] 1#8) = (times w P c)^[n + m * e] 1#8 := by
  induction k generalizing e m n with
  | zero =>
    obtain rfl : e = 0 := by omega
    rfl
  | succ k ih =>
    have hexp : (if e % 2 = 1 then n + m else n) + (m + m) * (e / 2) = n + m * e := by
      have hdiv := congrArg (m * ·) (Nat.div_add_mod e 2)
      split
      · next hodd => rw [hodd] at hdiv; linarith
      · next heven => rw [Nat.mod_two_ne_one.1 heven] at hdiv; linarith
    rw [powLoop, gfMulDirect_iterate_times hw hP, gfMulDirect_iterate_times hw hP,
      ← apply_ite (fun i => (times w P c)^[i] 1#8), ih (by rw [pow_succ] at he; omega), hexp]

variable (hc : c.toNat < 2 ^ w)
include hc

/-- A candidate of order `2^w - 1` is a generator: its powers are different, and none is zero because 1 comes back. -/
theorem isGenerator_of_minimalPeriod (h : Function.minimalPeriod (times w P c) 1#8 = 2 ^ w - 1) :
    isGenerator w P c = true := by
  have h4 : 4 ≤ 2 ^ w := four_le_elementCount hw.1
  have hlast : Function.IsPeriodicPt (times w P c) (2 ^ w - 1) 1#8 := h ▸ Function.isPeriodicPt_minimalPeriod _ _
  have hfirst : times w P c 1#8 = c := gfMulDirect_one_left P hw.2 (by omega) hc
  have hperiod : Function.minimalPeriod (times w P c) c = 2 ^ w - 1 := by
    have := Function.minimalPeriod_apply (Function.mk_mem_periodicPts (by omega) hlast)
    rwa [hfirst, h] at this
  have hiter : ∀ k, (times w P c)^[k] c = (times w P c)^[k + 1] 1#8 := fun k => by
    rw [Function.iterate_succ_apply, hfirst]
  refine isGenerator_iff_iterate.2 fun k hk => ⟨fun hzero => ?_, ?_, fun j hj heq => hj.ne ?_⟩
  · have hstays : (times w P c)^[2 ^ w - 1] 1#8 = 0#8 := by
      rw [show 2 ^ w - 1 = (2 ^ w - 1 - (k + 1)) + (k + 1) by omega, Function.iterate_add_apply, ← hiter, hzero]
      exact Function.iterate_fixed (gfMulDirect_zero_left w P c) _
    rw [hlast.eq] at hstays
    exact absurd hstays (by decide)
  · rw [hiter]; exact iterate_times_lt hw hP c (k + 1)
  · exact (Function.iterate_eq_iterate_iff_of_lt_minimalPeriod (by omega) (by omega)).1 heq

theorem gfPow_eq {e : Nat} (he : e < 256) : gfPow w P c e = (times w P c)^[e] 1#8 := by
  have hfirst : times w P c 1#8 = c := gfMulDirect_one_left P hw.2 (by omega) hc
  simpa [gfPow, hfirst] using powLoop_eq hw hP (c := c) (k := 8) he 1 0

/-- The order divides `2^w - 1` but no proper divisor of it. -/
theorem hasFullOrder_iff : HasFullOrder w P c ↔ Function.minimalPeriod (times w P c) 1#8 = 2 ^ w - 1 := by
  have h4 : 4 ≤ 2 ^ w := four_le_elementCount hw.1
  have h256 : 2 ^ w ≤ 256 := elementCount_le hw.2
  have hdiv := maximalDivisors_lt w hw.2 hw.1
  rw [HasFullOrder, gfPow_eq hw hP hc (by omega)]
  refine ⟨fun ⟨hlast, hproper⟩ => ?_, fun h => ⟨?_, fun d hd => ?_⟩⟩
  · have hperiodic : Function.IsPeriodicPt (times w P c) (2 ^ w - 1) 1#8 := hlast
    refine le_antisymm (hperiodic.minimalPeriod_le (by omega)) (not_lt.1 fun hlt => ?_)
    obtain ⟨d, hd, hdvd⟩ := exists_maximalDivisor w hw.2 hw.1 _ hlt hperiodic.minimalPeriod_dvd
    have hone := (Function.isPeriodicPt_minimalPeriod (times w P c) 1#8).trans_dvd hdvd
    exact hproper d hd ((gfPow_eq hw hP hc (by have := hdiv d hd; omega)).trans hone)
  · exact h ▸ Function.isPeriodicPt_minimalPeriod _ _
  · obtain ⟨hpos, hlt⟩ := hdiv d hd
    rw [gfPow_eq hw hP hc (by omega)]
    exact Function.not_isPeriodicPt_of_pos_of_lt_minimalPeriod hpos.ne' (by omega)

theorem isGenerator_iff_hasFullOrder : isGenerator w P c = true ↔ HasFullOrder w P c := by
  rw [hasFullOrder_iff hw hP hc]
  exact ⟨minimalPeriod_of_isGenerator hw hc, isGenerator_of_minimalPeriod hw hP hc⟩

end Order

/-! ## The listed pairs construct a field -/

theorem listed_wellFormed : ∀ t ∈ constructibleFields, (2 ≤ t.1 ∧ t.1 ≤ 8) ∧ (t.1 = 8 ∨ t.2.1 >>> t.1 = 1) ∧
    t.2.1 < 256 ∧ 2 ≤ t.2.2 ∧ t.2.2 < 2 ^ t.1 := by decide +kernel

/-- The listed generator has full order, and no smaller candidate has. -/
theorem listed_least : ∀ t ∈ constructibleFields, HasFullOrder t.1 (BitVec.ofNat 8 t.2.1) (BitVec.ofNat 8 t.2.2) ∧
    ∀ h < t.2.2, 2 ≤ h → ¬HasFullOrder t.1 (BitVec.ofNat 8 t.2.1) (BitVec.ofNat 8 h) := by
  unfold HasFullOrder
  decide +kernel

theorem findGenerator_of_listed {w p g : Nat} (h : (w, p, g) ∈ constructibleFields) :
    findGenerator w (BitVec.ofNat 8 p) = .ok (BitVec.ofNat 8 g) := by
  obtain ⟨hw, hp, hp256, h2, hg⟩ := listed_wellFormed _ h
  obtain ⟨hfull, hleast⟩ := listed_least _ h
  have hP : w = 8 ∨ (BitVec.ofNat 8 p).toNat >>> w = 1 := by rwa [BitVec.toNat_ofNat, Nat.mod_eq_of_lt hp256]
  have hrange : ∀ c ≤ g, (BitVec.ofNat 8 c).toNat < 2 ^ w := fun c hcg => by
    have hc : c < 2 ^ w := Nat.lt_of_le_of_lt hcg hg
    rwa [toNat_ofNat_element hw.2 hc]
  have hiff : ∀ c ≤ g, isGenerator w (BitVec.ofNat 8 p) (BitVec.ofNat 8 c) = true ↔
      HasFullOrder w (BitVec.ofNat 8 p) (BitVec.ofNat 8 c) := fun c hcg =>
    isGenerator_iff_hasFullOrder hw hP (hrange c hcg)
  exact findGenerator_of_least h2 hg ((hiff g le_rfl).2 hfull) fun c hc2 hcg =>
    Bool.eq_false_iff.2 fun htest => hleast c hcg hc2 ((hiff c hcg.le).1 htest)

/-! ## Every other pair fails -/

theorem gfMulDirect_two (w : Nat) (P x : Byte) : gfMulDirect w P x 2#8 = gfDbl w P x := by
  simp [gfMulDirect, mulDirectLoop]

theorem toNat_twoPow_pred {w : Nat} (h1 : 1 ≤ w) (h8 : w ≤ 8) : (BitVec.twoPow 8 (w - 1)).toNat = 2 ^ (w - 1) := by
  rw [BitVec.toNat_twoPow, Nat.mod_eq_of_lt (Nat.pow_lt_pow_right (by decide) (by omega))]

/-- Only a polynomial byte with leading bit `w` takes the doubling of `2^(w-1)` back into the field (R42, R43). -/
theorem shiftRight_eq_one_of_gfDbl_lt {w : Nat} {P : Byte} (h1 : 1 ≤ w) (h8 : w < 8)
    (h : (gfDbl w P (BitVec.twoPow 8 (w - 1))).toNat < 2 ^ w) : P.toNat >>> w = 1 := by
  have hshift : 2 ^ (w - 1) <<< 1 % 256 = 2 ^ w := by
    rw [Nat.shiftLeft_eq, ← pow_succ, Nat.sub_add_cancel h1]
    exact Nat.mod_eq_of_lt (Nat.pow_lt_pow_right (a := 2) (by decide) h8)
  rw [gfDbl_toNat _ _ ⟨h1, h8.le⟩, toNat_twoPow_pred h1 h8.le, Nat.testBit_two_pow_self, if_pos rfl, hshift] at h
  have hclear : (2 ^ w) >>> w ^^^ P.toNat >>> w = 0 := by
    rw [← Nat.shiftRight_xor_distrib, Nat.shiftRight_eq_div_pow, Nat.div_eq_of_lt h]
  rw [Nat.shiftRight_eq_div_pow, Nat.div_self (Nat.two_pow_pos w)] at hclear
  exact (Nat.xor_eq_zero_iff.1 hclear).symm

namespace FieldCtx.Inv

variable {F : FieldCtx} (h : F.Inv)
include h

/-- The polynomial byte of a constructed field is well-formed (R42): otherwise the doubling of `2^(w-1)`, which is a
product of two elements, is none. -/
theorem poly_wellFormed : F.w = 8 ∨ F.poly.toNat >>> F.w = 1 := by
  have h4 := h.four_le_count
  obtain ⟨h1, h8⟩ := h.order_bounds
  rcases h8.lt_or_eq with h7 | h8
  · refine .inr (shiftRight_eq_one_of_gfDbl_lt h1 h7 ?_)
    rw [← gfMulDirect_two, ← h.gfMulTable_eq_gfMulDirect]
    · exact h.gfMulTable_lt _ _
    · rw [toNat_twoPow_pred h1 h8]; exact Nat.pow_lt_pow_right (by decide) (by omega)
    · simp; omega
  · exact .inl h8

theorem gfMulDirect_ne_zero {x y : Byte} (hx0 : x ≠ 0#8) (hx : x.toNat < F.count) (hy0 : y ≠ 0#8)
    (hy : y.toNat < F.count) : gfMulDirect F.w F.poly x y ≠ 0#8 :=
  h.gfMulTable_eq_gfMulDirect hx hy ▸ h.gfMulTable_ne_zero hx0 hy0

end FieldCtx.Inv

/-- The quotient of two polynomials over GF(2), written as numbers, by long division: `k` digits of it are left. -/
def polyQuotient (a : Nat) : Nat → Nat → Nat
  | 0, _ => 0
  | k + 1, f => if f.testBit (k + a.log2) then 2 ^ k + polyQuotient a k (f ^^^ (a <<< k)) else polyQuotient a k f

/-- The polynomial of the byte `p` splits with factor `a`: `a` and the quotient are nonzero elements whose product (R44)
is zero. The product is computed, so nothing rests on the division. -/
def splits (w p a : Nat) : Bool :=
  let b := polyQuotient a w (2 ^ w + p % 2 ^ w)
  decide (0 < a ∧ a < 2 ^ w ∧ 0 < b ∧ b < 2 ^ w) &&
    gfMulDirect w (BitVec.ofNat 8 p) (BitVec.ofNat 8 b) (BitVec.ofNat 8 a) == 0#8

/-- A constructed field has no zero divisors, so its polynomial does not split. -/
theorem FieldCtx.Inv.not_splits {F : FieldCtx} (h : F.Inv) (a : Nat) : splits F.w F.poly.toNat a = false := by
  have hne : ∀ c, 0 < c → c < 2 ^ F.w → BitVec.ofNat 8 c ≠ 0#8 := fun c hc0 hc =>
    (ofNat_eq_zero_iff h.order.2 hc).not.2 (by omega)
  have hlt : ∀ c, c < 2 ^ F.w → (BitVec.ofNat 8 c).toNat < F.count := fun c hc => by
    rwa [toNat_ofNat_element h.order.2 hc]
  refine Bool.eq_false_iff.2 fun hsplits => ?_
  simp only [splits, Bool.and_eq_true, decide_eq_true_eq, beq_iff_eq, BitVec.ofNat_toNat, BitVec.setWidth_eq] at hsplits
  obtain ⟨⟨ha0, ha, hb0, hb⟩, hprod⟩ := hsplits
  exact h.gfMulDirect_ne_zero (hne _ hb0 hb) (hlt _ hb) (hne _ ha0 ha) (hlt _ ha) hprod

/-- A well-formed polynomial byte is listed or has an irreducible factor of degree at most 4. -/
theorem listed_or_splits : ∀ w ≤ 8, ∀ p < 256, 2 ≤ w ∧ (w = 8 ∨ p >>> w = 1) →
    (∃ t ∈ constructibleFields, t.1 = w ∧ t.2.1 = p) ∨ ∃ a ∈ [2, 3, 7, 11, 13, 19, 25, 31], splits w p a = true := by
  decide +kernel

/-- Settles O31: a pair that the search accepts does not split, so it is listed, and the listed generator is found. -/
theorem constructibleFieldsAreTheSixtyNine : Obligations.ConstructibleFieldsAreTheSixtyNine := by
  refine ⟨rfl, fun w P g _ h8 => ⟨fun hfind => ?_, fun hlisted => ?_⟩⟩
  · have hgen := generates_of_findGenerator h8 hfind
    have hinv := buildTables_inv hgen hfind
    rcases listed_or_splits w h8 P.toNat P.isLt ⟨hgen.order.1, hinv.poly_wellFormed⟩ with
      ⟨⟨_, _, g'⟩, hlisted, rfl, rfl⟩ | ⟨a, -, hsplits⟩
    · obtain ⟨-, -, -, -, hg'⟩ := listed_wellFormed _ hlisted
      have hfound := findGenerator_of_listed hlisted
      rw [BitVec.ofNat_toNat, BitVec.setWidth_eq, hfind] at hfound
      rwa [Except.ok.inj hfound, toNat_ofNat_element h8 hg']
    · exact absurd hsplits (Bool.eq_false_iff.1 (hinv.not_splits a))
  · simpa using findGenerator_of_listed hlisted

end Sys2Proof.Machine
end

section
/-!
PROOF. The commands of the matrix unit (R80 to R90): one lemma per way a command can end, what each matrix function
raises, and the entries of the matrices they make.
-/

namespace Sys2Proof.Machine

/-! ## One test, or one function that can fail, and then the rest of the command -/

section Ends

variable {α : Type} {s : State} {x : Except Err α}

theorem complete_bind_of_ok {a : α} (h : x = .ok a) (k : α → Except Err (State × Result)) :
    complete s (x >>= k) = complete s (k a) := by
  rw [h]; rfl

theorem complete_bind_of_error {e : Err} (h : x = .error e) (k : α → Except Err (State × Result)) :
    complete s (x >>= k) = .next (answerErr e.code s) := by
  rw [h]; rfl

theorem complete_needMat_some {r : MReg} {X : Mat} (h : s.mat r = some X) (k : Mat → Except Err (State × Result)) :
    complete s (needMat s r >>= k) = complete s (k X) :=
  complete_bind_of_ok (needMat_some h) k

theorem complete_needMat_none {r : MReg} (h : s.mat r = none) (k : Mat → Except Err (State × Result)) :
    complete s (needMat s r >>= k) = .next (answerErr 0x0C#8 s) :=
  complete_bind_of_error (needMat_none h) k

/-- Two sources are tested one after the other, with the same error (R80). -/
theorem complete_needMats_none {ma mb : MReg} (h : s.mat ma = none ∨ s.mat mb = none)
    (k : Mat → Mat → Except Err (State × Result)) :
    complete s (needMat s ma >>= fun T => needMat s mb >>= fun B => k T B) = .next (answerErr 0x0C#8 s) := by
  cases hma : s.mat ma with
  | none => exact complete_needMat_none hma _
  | some T => exact (complete_needMat_some hma _).trans (complete_needMat_none (h.resolve_left (by simp [hma])) _)

theorem complete_needMats_some {ma mb : MReg} {T B : Mat} (hT : s.mat ma = some T) (hB : s.mat mb = some B)
    (k : Mat → Mat → Except Err (State × Result)) :
    complete s (needMat s ma >>= fun T => needMat s mb >>= fun B => k T B) = complete s (k T B) :=
  (complete_needMat_some hT _).trans (complete_needMat_some hB _)

theorem complete_needCoder_none (h : s.coder = none) (k : Coder → Except Err (State × Result)) :
    complete s (needCoder s >>= k) = .next (answerErr 0x0A#8 s) :=
  complete_bind_of_error (needCoder_none h) k

/-- A matrix that was made goes whole into its register, and the command answers 0 (R80). -/
theorem complete_putMat {x : Except Err Mat} {X : Mat} (h : x = .ok X) (md : MReg) :
    complete s (x >>= fun X => .ok (s.putMat md X, 0#32)) = .next (answerOk 0 (s.putMat md X)) :=
  complete_bind_of_ok h _

end Ends

/-- Settles O32: the missing register or encoder is what the first test that fails is about. -/
theorem missingMatrixOrEncoderIsReported : Obligations.MissingMatrixOrEncoderIsReported := by
  refine ⟨fun i s r hr hs hfield => ?_, fun i s hi hs => ?_⟩
  · have hpair {ma mb : MReg} (h : r ∈ [ma, mb]) : s.mat ma = none ∨ s.mat mb = none := by
      rcases List.mem_pair.1 h with rfl | rfl
      · exact .inl hs
      · exact .inr hs
    cases i with
    | mappend => exact complete_needMats_none (hpair hr) _
    | mmulf =>
      obtain ⟨F, hF⟩ := Option.ne_none_iff_exists'.1 (hfield rfl)
      exact (complete_needField_some hF _).trans (complete_needMats_none (hpair hr) _)
    | mtovec | mrd | mdim | mwr =>
      obtain rfl := List.mem_singleton.1 hr
      exact complete_needMat_none hs _
    | nop | reset | field | gfadd | gfsub | gfmuld | gfmult | gfdivt | isgen | mingen | allgen | rdpow => cases hr
    | rdlog | rdfld | mnew | mident | mcolv | mcauchy => cases hr
    | dclr | dpush | rdout | rdolen | rsnew | rsenc | rsrdg | rsdim => cases hr
  · cases i with
    | rsenc | rsrdg | rsdim => exact complete_needCoder_none hs _
    | nop | reset | field | gfadd | gfsub | gfmuld | gfmult | gfdivt | isgen | mingen | allgen | rdpow => cases hi
    | rdlog | rdfld | mnew | mident | mcolv | mcauchy | mappend | mmulf | mtovec | mrd | mwr | mdim => cases hi
    | dclr | dpush | rdout | rdolen | rsnew => cases hi

/-! ## New matrices (R72, R73, R74) -/

theorem matNew_large {rows cols : Nat} (h : 256 < rows ∨ 256 < cols) (fill : Byte) :
    matNew rows cols fill = .error .capacityExceeded := if_pos h

theorem matIdentity_large {n : Nat} (h : 256 < n) : matIdentity n = .error .capacityExceeded := by
  rw [matIdentity, if_neg (by omega), if_pos h]

/-- Settles O33: a size above 256 is the one error of `MNEW`. -/
theorem newAndColumnMatrices : Obligations.NewAndColumnMatrices := by
  refine ⟨fun _ _ _ _ => rfl, fun _ => rfl, fun s md rows cols fill => ?_, fun _ _ => rfl⟩
  split
  · next h => exact complete_bind_of_error (matNew_large h fill) _
  · next h => exact complete_putMat (matNew_ok.2 ⟨by omega, by omega, rfl⟩) md

/-- Settles O34: the entries are those the matrix is built from. -/
theorem identityMatrix : Obligations.IdentityMatrix := by
  refine ⟨fun _ _ => rfl, fun s md n => ⟨?_, fun h => ?_, fun h1 h256 => ?_⟩⟩
  · rintro rfl; rfl
  · exact complete_bind_of_error (matIdentity_large h) _
  · exact ⟨_, complete_putMat (matIdentity_ok.2 ⟨h1, h256, rfl⟩) md, rfl, rfl, build_length .., fun _ _ => build_at _⟩

/-! ## The Cauchy matrix (R75) -/

section Cauchy

variable {F : FieldCtx} {rows cols : Nat}

theorem matCauchy_tooManyFragments (h : 255 < rows ∨ 255 < cols) :
    matCauchy F rows cols = .error .tooManyFragments := if_pos h

theorem matCauchy_fieldCapacityExceeded (hrows : rows ≤ 255) (hcols : cols ≤ 255) (h : F.count < rows + cols) :
    matCauchy F rows cols = .error .fieldCapacityExceeded := by
  rw [matCauchy, Config.cauchyLimit, if_neg (by omega), if_pos h]

theorem matCauchy_operandOutOfField (hrows : rows ≤ 255) (hcols : cols ≤ 255)
    (h : 1 ≤ rows ∧ 1 ≤ cols ∧ rows + cols = F.count) : matCauchy F rows cols = .error .operandOutOfField := by
  rw [matCauchy, Config.cauchyLimit, if_neg (by omega), if_neg (by omega), if_pos h]

/-- A Cauchy matrix with an entry leaves the last element of the field unused (R75). -/
theorem matCauchy_sizes {X : Mat} (h : matCauchy F rows cols = .ok X) {i j : Nat} (hi : i < rows) (hj : j < cols) :
    rows + cols < F.count := by
  obtain ⟨-, hle, hne, -⟩ := matCauchy_ok.1 h
  omega

/-- An entry of a Cauchy matrix, by the quotient that makes it (R75). -/
theorem matCauchy_at {X : Mat} (h : matCauchy F rows cols = .ok X) {i j : Nat} (hi : i < rows) (hj : j < cols) :
    X.at i j = gfQuot F 1#8 (gfAdd (cauchyX i) (cauchyY rows j)) := by
  obtain ⟨-, -, -, rfl⟩ := matCauchy_ok.1 h
  exact build_at _ hi hj

end Cauchy

/-- Settles O35: the tests in their order, and a divisor that is never zero. -/
theorem cauchyMatrixEntries : Obligations.CauchyMatrixEntries := by
  refine ⟨fun _ _ _ => rfl, fun s md rows cols => ⟨fun hs => complete_needField_none hs _, fun F hF => ?_⟩⟩
  have hexec : exec (.mcauchy md rows cols) s =
      complete s (matCauchy F rows cols >>= fun X => .ok (s.putMat md X, 0#32)) := complete_needField_some hF _
  rw [hexec]
  refine ⟨fun h => ?_, fun hr hc h => ?_, fun hr hc hr1 hc1 h => ?_, fun hr hc hle hne hw => ?_⟩
  · exact complete_bind_of_error (matCauchy_tooManyFragments h) _
  · exact complete_bind_of_error (matCauchy_fieldCapacityExceeded hr hc h) _
  · exact complete_bind_of_error (matCauchy_operandOutOfField hr hc ⟨hr1, hc1, h⟩) _
  · have hX := matCauchy_ok.2 ⟨⟨hr, hc⟩, hle, fun hlast => by unfold FieldCtx.count elementCount at hlast; omega, rfl⟩
    refine ⟨_, complete_putMat hX md, rfl, rfl, build_length .., fun i j hi hj => ?_⟩
    have hlt := (matCauchy_sizes hX hi hj).trans_le (elementCount_le hw)
    rw [matCauchy_at hX hi hj, BitVec.ofNat_xor]
    exact gfDivTable_of_ne (cauchy_divisor_ne_zero hi hj (by omega))

/-! ## Rows below rows (R77) -/

section Append

variable {T B X : Mat} {r c : Nat}

theorem matAppend_shapeMismatch (h : T.cols ≠ B.cols) : matAppend T B = .error .shapeMismatch := if_pos h

theorem matAppend_capacityExceeded (h : T.cols = B.cols) (h256 : 256 < T.rows + B.rows) :
    matAppend T B = .error .capacityExceeded := by
  rw [matAppend, if_neg (not_not.2 h), if_pos h256]

/-- The top rows keep their place. -/
theorem matAppend_at_top (h : matAppend T B = .ok X) (hT : T.wf) (hr : r < T.rows) (hc : c < T.cols) :
    X.at r c = T.at r c := by
  obtain ⟨-, -, rfl⟩ := matAppend_ok.1 h
  obtain ⟨-, -, hlen⟩ := hT
  exact List.getD_append _ _ _ _ (hlen ▸ index_lt hr hc)

/-- The bottom rows come after the `T.rows` of the top. -/
theorem matAppend_at_bottom (h : matAppend T B = .ok X) (hT : T.wf) : X.at (T.rows + r) c = B.at r c := by
  obtain ⟨hcols, -, rfl⟩ := matAppend_ok.1 h
  obtain ⟨-, -, hlen⟩ := hT
  have hindex : (T.rows + r) * T.cols + c = T.e.length + (r * B.cols + c) := by rw [hlen, ← hcols]; ring
  simp only [Mat.at, hindex]
  rw [List.getD_append_right _ _ _ _ (Nat.le_add_right ..), Nat.add_sub_cancel_left]

end Append

/-- Settles O37: the tests in their order, and where each row stands. -/
theorem appendStacksRows : Obligations.AppendStacksRows := by
  refine ⟨fun _ _ _ => rfl, fun s md ma mb h => complete_needMats_none h _, fun s md ma mb T B hT hB => ?_⟩
  have hexec : exec (.mappend md ma mb) s = complete s (matAppend T B >>= fun X => .ok (s.putMat md X, 0#32)) :=
    complete_needMats_some hT hB _
  rw [hexec]
  refine ⟨fun h => ?_, fun h h256 => ?_, fun h h256 hTwf hBwf => ?_⟩
  · exact complete_bind_of_error (matAppend_shapeMismatch h) _
  · exact complete_bind_of_error (matAppend_capacityExceeded h h256) _
  · have hX := matAppend_ok.2 ⟨h, h256, rfl⟩
    obtain ⟨-, -, hlen⟩ := matAppend_wf hTwf hBwf hX
    exact ⟨_, complete_putMat hX md, rfl, rfl, hlen, fun _ _ => matAppend_at_top hX hTwf,
      fun _ _ _ _ => matAppend_at_bottom hX hTwf⟩

/-! ## The product (R78) -/

section Product

variable {F : FieldCtx} {A B : Mat}

theorem outOfField_or_iff :
    (A.outOfField F || B.outOfField F) = true ↔ ∃ v ∈ A.e ++ B.e, F.count ≤ v.toNat := by
  simp [Mat.outOfField, or_and_right, exists_or]

theorem matMulF_shapeMismatch (h : A.cols ≠ B.cols) : matMulF F A B = .error .shapeMismatch := if_pos h

theorem matMulF_operandOutOfField (h : A.cols = B.cols) (hout : ∃ v ∈ A.e ++ B.e, F.count ≤ v.toNat) :
    matMulF F A B = .error .operandOutOfField := by
  rw [matMulF, if_neg (not_not.2 h), if_pos (outOfField_or_iff.2 hout)]

theorem rowProduct_eq_foldl_map (m n : Nat) :
    rowProduct F A B m n = ((List.range A.cols).map fun p => gfMulTable F (A.at m p) (B.at n p)).foldl gfAdd 0#8 :=
  List.foldl_map.symm

end Product

/-- Settles O38: the tests in their order, and the sum each entry is. -/
theorem matrixProductContractsColumns : Obligations.MatrixProductContractsColumns := by
  refine ⟨fun _ _ _ => rfl, fun s md ma mb hs => complete_needField_none hs _, fun s md ma mb hs h => ?_,
    fun s md ma mb F A B hF hA hB => ?_⟩
  · obtain ⟨F, hF⟩ := Option.ne_none_iff_exists'.1 hs
    exact (complete_needField_some hF _).trans (complete_needMats_none h _)
  have hexec : exec (.mmulf md ma mb) s = complete s (matMulF F A B >>= fun X => .ok (s.putMat md X, 0#32)) :=
    (complete_needField_some hF _).trans (complete_needMats_some hA hB _)
  rw [hexec]
  refine ⟨fun h => ?_, fun h hout => ?_, fun h hin => ?_⟩
  · exact complete_bind_of_error (matMulF_shapeMismatch h) _
  · exact complete_bind_of_error (matMulF_operandOutOfField h hout) _
  · have hnone : (A.outOfField F || B.outOfField F) = false := by
      rw [← Bool.not_eq_true, outOfField_or_iff]
      exact fun ⟨v, hv, hge⟩ => (hin v hv).not_ge hge
    refine ⟨_, complete_putMat (matMulF_ok.2 ⟨h, hnone, rfl⟩) md, rfl, rfl, build_length .., fun m n hm hn => ?_⟩
    rw [build_at _ hm hn, rowProduct_eq_foldl_map]

/-! ## Reading a matrix (R79, R87, R88, R90) -/

/-- Entry `(r, c)` of a matrix in form is in its store (R17). -/
theorem getElem?_eq_at {A : Mat} {r c : Nat} (hA : A.wf) (hr : r < A.rows) (hc : c < A.cols) :
    A.e[r * A.cols + c]? = some (A.at r c) := by
  obtain ⟨-, -, hlen⟩ := hA
  have hlt : r * A.cols + c < A.e.length := hlen ▸ index_lt hr hc
  rw [Mat.at, List.getD_eq_getElem _ _ hlt, List.getElem?_eq_getElem hlt]

/-- Settles O39: the store is the row-major sequence. -/
theorem flattenIsRowMajor : Obligations.FlattenIsRowMajor := by
  refine ⟨fun _ => rfl, fun s ma => ?_, fun _ _ _ => getElem?_eq_at⟩
  cases hA : s.mat ma with
  | none => exact complete_needMat_none hA _
  | some A => exact complete_needMat_some hA _

/-- The test of an index into a matrix (R88, R89). -/
theorem complete_requireEntry (s : State) (A : Mat) (r c : Nat) (k : Unit → Except Err (State × Result)) :
    complete s (require (r < A.rows ∧ c < A.cols) .indexOutOfRange >>= k) =
      if A.rows ≤ r ∨ A.cols ≤ c then .next (answerErr 0x0E#8 s) else complete s (k ()) := by
  rw [complete_require, ← ite_not]
  exact if_congr (by omega) rfl rfl

/-- Both sizes fit their halves of the answer (R90). -/
theorem resultOfPair_eq {hi lo : Nat} (hhi : hi ≤ 256) (hlo : lo ≤ 256) :
    resultOfPair hi lo = BitVec.ofNat 32 (2 ^ 16 * hi + lo) := by
  have hshift : BitVec.ofNat 32 hi <<< 16 = BitVec.ofNat 32 (hi <<< 16) := by
    refine BitVec.eq_of_toNat_eq ?_
    rw [BitVec.toNat_shiftLeft, BitVec.toNat_ofNat, BitVec.toNat_ofNat, Nat.mod_eq_of_lt (show hi < 2 ^ 32 by omega)]
  have hsum : 2 ^ 16 * hi + lo = hi <<< 16 ||| lo := by
    rw [← Nat.shiftLeft_add_eq_or_of_lt (by omega), Nat.shiftLeft_eq, Nat.mul_comm]
  rw [resultOfPair, hshift, hsum, BitVec.ofNat_or]

/-- Settles O40: the index test and the entry, and the two sizes side by side. -/
theorem matrixReads : Obligations.MatrixReads := by
  refine ⟨fun _ _ _ => rfl, fun _ => rfl, fun s ma r col => ?_, fun s ma hsizes => ?_⟩
  · cases hA : s.mat ma with
    | none => exact complete_needMat_none hA _
    | some A =>
      refine (complete_needMat_some hA _).trans ((complete_requireEntry ..).trans ?_)
      rw [apply_ite Host.Outcome.next, ← complete_byte s]; rfl
  · cases hA : s.mat ma with
    | none => exact complete_needMat_none hA _
    | some A =>
      obtain ⟨hrows, hcols⟩ := hsizes A hA
      refine (complete_needMat_some hA _).trans ?_
      rw [resultOfPair_eq hrows hcols]; rfl

/-! ## Writing one entry (R89) -/

section Put

variable {A : Mat} {r c r' c' : Nat}

theorem put_at_self (hA : A.wf) (hr : r < A.rows) (hc : c < A.cols) (v : Byte) : (A.put r c v).at r c = v := by
  obtain ⟨-, -, hlen⟩ := hA
  have hlt : r * A.cols + c < A.e.length := hlen ▸ index_lt hr hc
  simp [Mat.at, Mat.put, hlt]

/-- Another entry has another index. -/
theorem put_at_ne (v : Byte) (hc : c < A.cols) (hc' : c' < A.cols) (hne : r' ≠ r ∨ c' ≠ c) :
    (A.put r c v).at r' c' = A.at r' c' := by
  have hindex : r * A.cols + c ≠ r' * A.cols + c' := fun heq => by
    obtain ⟨rfl, rfl⟩ := index_injective hc hc' heq
    exact hne.elim (· rfl) (· rfl)
  simp only [Mat.at, Mat.put, List.getD_eq_getElem?_getD, List.getElem?_set_ne hindex]

end Put

/-- Settles O41: the store is changed at the one index of the entry. -/
theorem matrixWriteChangesOneEntry : Obligations.MatrixWriteChangesOneEntry := by
  refine ⟨fun _ _ _ _ => rfl, fun s md r col value hs => complete_needMat_none hs _,
    fun s md r col value A hA hwf => ?_⟩
  have hexec : exec (.mwr md r col value) s = if A.rows ≤ r ∨ A.cols ≤ col then .next (answerErr 0x0E#8 s)
      else .next (answerOk 0 (s.putMat md (A.put r col value))) :=
    (complete_needMat_some hA _).trans (complete_requireEntry ..)
  refine ⟨fun hout => hexec.trans (if_pos hout), fun hr hc => ?_⟩
  exact ⟨A.put r col value, hexec.trans (if_neg (by omega)), rfl, rfl, put_length .., put_at_self hwf hr hc value,
    fun r' c' _ hc' => put_at_ne value hc hc'⟩

end Sys2Proof.Machine
end

section
/-!
PROOF. Every square submatrix of a Cauchy matrix is invertible (R76): over any field, by eliminating one row and one
column at a time; and the elements of a constructed field are a field of Mathlib, by the laws of R52.
-/

namespace Sys2Proof.Machine

/-! ## Cauchy matrices over a field -/

section CauchyKernel

variable {K : Type} [Field K]

/-- The row of `x` applied to a vector: the sum of `z / (x + y)` over the pairs `(y, z)`. -/
def cauchySum (x : K) (l : List (K × K)) : K := (l.map fun q => q.2 / (x + q.1)).sum

/-- The vector that is left when the row of `x₀` has eliminated the column of `y₀`. -/
def eliminate (x₀ y₀ : K) (l : List (K × K)) : List (K × K) :=
  l.map fun q => (q.1, q.2 * (y₀ - q.1) / (x₀ + q.1))

/-- Elimination: the row of `x` times `x + y₀`, less the row of `x₀` times `x₀ + y₀`, is a multiple of the row of `x`
applied to the vector that is left. -/
theorem cauchySum_eliminate {x x₀ : K} (y₀ : K) {l : List (K × K)}
    (hx : ∀ q ∈ l, x + q.1 ≠ 0) (hx₀ : ∀ q ∈ l, x₀ + q.1 ≠ 0) :
    (x₀ - x) * cauchySum x (eliminate x₀ y₀ l) = (x + y₀) * cauchySum x l - (x₀ + y₀) * cauchySum x₀ l := by
  induction l with
  | nil => simp [cauchySum, eliminate]
  | cons q l ih =>
    rw [List.forall_mem_cons] at hx hx₀
    obtain ⟨hq, hx⟩ := hx
    obtain ⟨hq₀, hx₀⟩ := hx₀
    have hterm : (x₀ - x) * (q.2 * (y₀ - q.1) / (x₀ + q.1) / (x + q.1)) =
        (x + y₀) * (q.2 / (x + q.1)) - (x₀ + y₀) * (q.2 / (x₀ + q.1)) := by
      field_simp
      ring
    simp only [cauchySum, eliminate, List.map_cons, List.sum_cons, mul_add] at ih ⊢
    rw [hterm, ih hx hx₀]
    ring

/-- A vector that as many different rows as it has entries send to zero is zero (R76): the first row eliminates one
entry, and the other rows send what is left to zero. -/
theorem eq_zero_of_cauchySum_eq_zero {xs : List K} {l : List (K × K)} (hlen : l.length ≤ xs.length) (hxs : xs.Nodup)
    (hys : (l.map Prod.fst).Nodup) (hne : ∀ x ∈ xs, ∀ q ∈ l, x + q.1 ≠ 0) (hsum : ∀ x ∈ xs, cauchySum x l = 0) :
    ∀ q ∈ l, q.2 = 0 := by
  induction xs generalizing l with
  | nil => simp [List.length_eq_zero_iff.1 (Nat.le_zero.1 hlen)]
  | cons x₀ xs ih =>
    rcases l with _ | ⟨q₀, l⟩
    · simp
    obtain ⟨hx₀, hxs⟩ := List.nodup_cons.1 hxs
    obtain ⟨hy₀, hys⟩ := List.nodup_cons.1 hys
    simp only [List.forall_mem_cons] at hne hsum ⊢
    obtain ⟨⟨hq₀, hne₀⟩, hne⟩ := hne
    obtain ⟨hsum₀, hsum⟩ := hsum
    have hleft : ∀ q ∈ eliminate x₀ q₀.1 l, q.2 = 0 := by
      refine ih (by simpa [eliminate] using hlen) hxs (by simpa [eliminate, Function.comp_def] using hys)
        (fun x hx => List.forall_mem_map.2 (hne x hx).2) fun x hx => ?_
      have hmul := cauchySum_eliminate q₀.1 (List.forall_mem_cons.2 (hne x hx)) (List.forall_mem_cons.2 ⟨hq₀, hne₀⟩)
      rw [hsum x hx, hsum₀, mul_zero, mul_zero, sub_zero] at hmul
      have hx0 : x₀ - x ≠ 0 := fun heq => hx₀ (sub_eq_zero.1 heq ▸ hx)
      simpa [eliminate, cauchySum] using (mul_eq_zero.1 hmul).resolve_left hx0
    have hl : ∀ q ∈ l, q.2 = 0 := fun q hq => by
      have hzero := List.forall_mem_map.1 hleft q hq
      have hyne : q₀.1 - q.1 ≠ 0 := fun heq => hy₀ (sub_eq_zero.1 heq ▸ List.mem_map_of_mem hq)
      simpa [hyne, hne₀ q hq] using hzero
    have hrest : cauchySum x₀ l = 0 :=
      List.sum_eq_zero (List.forall_mem_map.2 fun q hq => by rw [hl q hq, zero_div])
    have hfirst : q₀.2 / (x₀ + q₀.1) + cauchySum x₀ l = 0 := hsum₀
    rw [hrest, add_zero] at hfirst
    exact ⟨(div_eq_zero_iff.1 hfirst).resolve_right hq₀, hl⟩

end CauchyKernel

/-! ## A constructed field as a field of Mathlib (R52) -/

/-- The elements of a field. -/
abbrev FieldCtx.Elem (F : FieldCtx) : Type := {v : Byte // v.toNat < F.count}

/-- The element a number below `element_count` stands for. -/
def FieldCtx.elem (F : FieldCtx) (n : Nat) : F.Elem :=
  ⟨BitVec.ofNat 8 (n % F.count), (Nat.mod_le ..).trans_lt (Nat.mod_lt n (elementCount_pos F.w))⟩

theorem FieldCtx.elem_val {F : FieldCtx} {n : Nat} (h : n < F.count) : (F.elem n).val = BitVec.ofNat 8 n := by
  simp only [FieldCtx.elem, Nat.mod_eq_of_lt h]

namespace FieldCtx.Inv

variable {F : FieldCtx} (h : F.Inv)
include h

theorem one_lt_count : (1#8 : Byte).toNat < F.count := by
  have := h.four_le_count
  simp; omega

theorem elem_injective {m n : Nat} (hm : m < F.count) (hn : n < F.count) (heq : F.elem m = F.elem n) : m = n := by
  have hval := congrArg (BitVec.toNat ·.val) heq
  simpa [elem_val hm, elem_val hn, toNat_ofNat_element h.order.2 hm, toNat_ofNat_element h.order.2 hn] using hval

theorem nodup_map_elem {l : List Nat} (hl : l.Nodup) (k : Nat) (hlt : ∀ n ∈ l, k + n < F.count) :
    (l.map fun n => F.elem (k + n)).Nodup :=
  hl.map_on fun m hm n hn heq => Nat.add_left_cancel (h.elem_injective (hlt m hm) (hlt n hn) heq)

/-- The reciprocal of an element, and 0 for 0 as Mathlib has it. -/
def recip (x : F.Elem) : F.Elem :=
  if x.val = 0#8 then ⟨0#8, elementCount_pos F.w⟩ else ⟨gfQuot F 1#8 x, h.gfQuot_lt 1#8 x⟩

theorem recip_zero : h.recip ⟨0#8, elementCount_pos F.w⟩ = ⟨0#8, elementCount_pos F.w⟩ := if_pos rfl

theorem mul_recip {x : F.Elem} (hx : x.val ≠ 0#8) : gfMulTable F x (h.recip x) = 1#8 := by
  rw [recip, if_neg hx, gfMulTable_comm, h.gfMulTable_gfQuot h.one_lt_count hx x.2]

end FieldCtx.Inv

/-- The laws of R52 are those of a field. -/
abbrev elemField {F : FieldCtx} (h : F.Inv) : Field F.Elem :=
  letI : Add F.Elem := ⟨fun x y => ⟨gfAdd x y, gfAdd_lt x.2 y.2⟩⟩
  letI : Mul F.Elem := ⟨fun x y => ⟨gfMulTable F x y, h.gfMulTable_lt x y⟩⟩
  letI : Neg F.Elem := ⟨id⟩
  letI : Inv F.Elem := ⟨h.recip⟩
  letI : Zero F.Elem := ⟨⟨0#8, elementCount_pos F.w⟩⟩
  letI : One F.Elem := ⟨⟨1#8, h.one_lt_count⟩⟩
  Field.ofMinimalAxioms F.Elem
    (fun x y z => Subtype.ext (BitVec.xor_assoc x.val y.val z.val))
    (fun x => Subtype.ext BitVec.zero_xor)
    (fun x => Subtype.ext BitVec.xor_self)
    (fun x y z => Subtype.ext (h.gfMulTable_assoc x.2 y.2 z.2))
    (fun x y => Subtype.ext (gfMulTable_comm F x y))
    (fun x => Subtype.ext ((gfMulTable_comm F 1#8 x).trans (h.gfMulTable_one x.2)))
    (fun x hx => Subtype.ext (h.mul_recip fun h0 => hx (Subtype.ext h0)))
    h.recip_zero
    (fun x y z => Subtype.ext (h.gfMulTable_gfAdd x.2 y.2 z.2))
    ⟨0, 1, fun heq => absurd (congrArg Subtype.val heq) (show (0#8 : Byte) ≠ 1#8 by decide)⟩

/-- A sum of bytes that are elements is their sum in the field. -/
theorem foldl_gfAdd_eq_sum {F : FieldCtx} (h : F.Inv) (l : List F.Elem) :
    letI := elemField h
    (l.map Subtype.val).foldl gfAdd 0#8 = l.sum.val := by
  let := elemField h
  rw [List.foldl_map, List.sum_eq_foldl]
  exact List.foldl_hom Subtype.val (g₁ := (· + ·)) (g₂ := fun u (v : F.Elem) => gfAdd u v.val) (init := 0)
    fun _ _ => rfl

/-- The product with a reciprocal is a quotient of the field. -/
theorem gfMulTable_recip_eq_div {F : FieldCtx} (h : F.Inv) (v d : F.Elem) (hd : d.val ≠ 0#8) :
    letI := elemField h
    gfMulTable F (gfQuot F 1#8 d) v = (v / d : F.Elem).val := by
  let := elemField h
  rw [gfMulTable_comm, div_eq_mul_inv]
  show _ = gfMulTable F v (h.recip d)
  rw [FieldCtx.Inv.recip, if_neg hd]

/-! ## Cauchy submatrices (R76) -/

/-- The elements `y_j` of the columns `K`, each with its entry of a vector (R75). -/
def cauchyPairs (F : FieldCtx) (rows : Nat) (K : List Nat) (z : List F.Elem) : List (F.Elem × F.Elem) :=
  (K.map fun j => F.elem (1 + rows + j)).zip z

section Submatrix

variable {F : FieldCtx} (h : F.Inv) {rows cols : Nat} {X : Mat} (hX : matCauchy F rows cols = .ok X)
include h hX

/-- An entry of a Cauchy matrix is the reciprocal of `x_i + y_j`, which is not zero (R75). -/
theorem gfMulTable_cauchy_entry {i j : Nat} (hi : i < rows) (hj : j < cols) (v : F.Elem) :
    letI := elemField h
    F.elem (1 + i) + F.elem (1 + rows + j) ≠ 0 ∧
      gfMulTable F (X.at i j) v = (v / (F.elem (1 + i) + F.elem (1 + rows + j)) : F.Elem).val := by
  let := elemField h
  have hlt := matCauchy_sizes hX hi hj
  have hle : F.count ≤ 256 := elementCount_le h.order.2
  have hsum : (F.elem (1 + i) + F.elem (1 + rows + j)).val = gfAdd (cauchyX i) (cauchyY rows j) :=
    congrArg₂ gfAdd (FieldCtx.elem_val (by omega)) (FieldCtx.elem_val (by omega))
  have hne := cauchy_divisor_ne_zero hi hj (by omega)
  rw [← hsum] at hne
  refine ⟨fun h0 => hne (congrArg Subtype.val h0), ?_⟩
  rw [matCauchy_at hX hi hj, ← hsum, gfMulTable_recip_eq_div h _ _ hne]

/-- A row of a Cauchy submatrix applied to a vector, byte by byte and in the field. -/
theorem foldl_cauchy_row {K : List Nat} {i : Nat} (hi : i < rows) (hK : ∀ j ∈ K, j < cols) (z : List F.Elem) :
    letI := elemField h
    (List.zipWith (fun j v => gfMulTable F (X.at i j) v) K (z.map Subtype.val)).foldl gfAdd 0#8 =
      (cauchySum (F.elem (1 + i)) (cauchyPairs F rows K z)).val := by
  let := elemField h
  rw [cauchySum, ← foldl_gfAdd_eq_sum h]
  congr 1
  refine List.ext_getElem (by simp [cauchyPairs]) fun k hk _ => ?_
  simp [cauchyPairs, (gfMulTable_cauchy_entry h hX hi (hK _ (List.getElem_mem _)) _).2]

/-- A vector that as many different rows of a Cauchy matrix as it has entries send to zero is zero (R76). -/
theorem cauchy_kernel_trivial {R K : List Nat} {z : List F.Elem} (hR : R.Nodup) (hK : K.Nodup)
    (hlen : K.length ≤ R.length) (hz : z.length = K.length) (hRlt : ∀ i ∈ R, i < rows) (hKlt : ∀ j ∈ K, j < cols)
    (hzero : ∀ i ∈ R,
      (List.zipWith (fun j v => gfMulTable F (X.at i j) v) K (z.map Subtype.val)).foldl gfAdd 0#8 = 0#8) :
    ∀ v ∈ z, v.val = 0#8 := by
  intro v hv
  let := elemField h
  have hKpos : 0 < K.length := hz ▸ List.length_pos_of_mem hv
  obtain ⟨i₀, hi₀⟩ := List.exists_mem_of_length_pos (hKpos.trans_le hlen)
  obtain ⟨j₀, hj₀⟩ := List.exists_mem_of_length_pos hKpos
  have hsizes := matCauchy_sizes hX (hRlt i₀ hi₀) (hKlt j₀ hj₀)
  have hxs := h.nodup_map_elem hR 1 fun i hi => by have := hRlt i hi; omega
  have hys := h.nodup_map_elem hK (1 + rows) fun j hj => by have := hKlt j hj; omega
  have hfst : (cauchyPairs F rows K z).map Prod.fst = K.map fun j => F.elem (1 + rows + j) :=
    List.map_fst_zip (by simp [hz])
  have hsnd : (cauchyPairs F rows K z).map Prod.snd = z := List.map_snd_zip (by simp [hz])
  have hpairs := eq_zero_of_cauchySum_eq_zero (l := cauchyPairs F rows K z) (by simpa [cauchyPairs, hz] using hlen) hxs
    (hfst ▸ hys) ?_ ?_
  · rw [← hsnd] at hv
    obtain ⟨q, hq, rfl⟩ := List.mem_map.1 hv
    exact congrArg Subtype.val (hpairs q hq)
  · refine List.forall_mem_map.2 fun i hi q hq => ?_
    obtain ⟨j, hj, hqj⟩ := List.mem_map.1 (hfst ▸ List.mem_map_of_mem hq)
    rw [← hqj]
    exact (gfMulTable_cauchy_entry h hX (hRlt i hi) (hKlt j hj) 0).1
  · refine List.forall_mem_map.2 fun i hi => Subtype.ext ?_
    rw [← foldl_cauchy_row h hX (hRlt i hi) hKlt]
    exact hzero i hi

end Submatrix

/-- Settles O36: a square submatrix has as many rows as columns, and its vectors are of elements of the field. -/
theorem cauchySubmatricesAreInvertible : Obligations.CauchySubmatricesAreInvertible := by
  intro F rows cols X h hX R K z hR hK hlen hz hRlt hKlt hzlt hzero
  lift z to List F.Elem using hzlt
  exact List.forall_mem_map.2 (cauchy_kernel_trivial h hX hR hK hlen.ge (by simpa using hz) hRlt hKlt hzero)

end Sys2Proof.Machine
end

section
/-!
PROOF. The commands of the Reed-Solomon encoder (R97 to R105): the entries of the generator matrix, the codeword byte by
byte, and what follows from it for the code.
-/

namespace Sys2Proof.Machine

/-! ## The encoder's field (R15) -/

/-- The encoder's field is a constructed one, so the laws of R52 hold in it. -/
theorem coderField_inv : coderField.Inv := (constructField_inv coderField_constructed).1

theorem lt_coderField_count (v : Byte) : v.toNat < coderField.count := coderField_count ▸ v.isLt

/-! ## Building an encoder (R97, R101) -/

section Build

variable {k m : Nat}

theorem rsNew_tooManyFragments (hk : 1 ≤ k) (h : 255 < m ∨ 255 < k) : rsNew k m = .error .tooManyFragments := by
  rw [rsNew, Config.cauchyLimit, if_neg (by omega), if_pos h]
  rfl

theorem rsNew_fieldCapacityExceeded (hk : 1 ≤ k) (hk255 : k ≤ 255) (hm : m ≤ 255) (h : 256 < k + m) :
    rsNew k m = .error .fieldCapacityExceeded := by
  rw [rsNew, Config.cauchyLimit, coderField_count, if_neg (by omega), if_neg (by omega), if_pos (by omega)]
  rfl

theorem rsNew_operandOutOfField (hk : 1 ≤ k) (hm : 1 ≤ m) (h : k + m = 256) :
    rsNew k m = .error .operandOutOfField := by
  rw [rsNew, Config.cauchyLimit, coderField_count, if_neg (by omega), if_neg (by omega), if_neg (by omega),
    if_pos (by omega)]
  rfl

/-- Past the tests the three parts are built (R97). -/
theorem rsNew_succeeds (hk : 1 ≤ k) (h : k + m ≤ 255) : ∃ C, rsNew k m = .ok C := by
  have hI : matIdentity k = .ok _ := matIdentity_ok.2 ⟨hk, by omega, rfl⟩
  have hCm : matCauchy coderField m k = .ok _ :=
    matCauchy_ok.2 ⟨⟨by omega, by omega⟩, by rw [coderField_count]; omega, by rw [coderField_count]; omega, rfl⟩
  rw [rsNew, Config.cauchyLimit, coderField_count, if_neg (by omega), if_neg (by omega), if_neg (by omega),
    if_neg (by omega), hI, hCm]
  refine ⟨_, bind_ok.2 ⟨_, rfl, bind_ok.2 ⟨_, rfl, bind_ok.2 ⟨_, matAppend_ok.2 ⟨rfl, ?_, rfl⟩, rfl⟩⟩⟩⟩
  simp only [build_rows]; omega

variable {C : Coder} (h : rsNew k m = .ok C)
include h

/-- The generator matrix is the identity above the Cauchy matrix (R97). -/
theorem gMat_of_rsNew :
    ∃ I Cm, matIdentity k = .ok I ∧ matCauchy coderField m k = .ok Cm ∧ matAppend I Cm = .ok C.gMat := by
  obtain ⟨-, -, -, hsum, I, Cm, hI, hCm, rfl⟩ := rsNew_ok h
  obtain ⟨-, hk, rfl⟩ := matIdentity_ok.1 hI
  obtain ⟨-, -, -, rfl⟩ := matCauchy_ok.1 hCm
  exact ⟨_, _, hI, hCm, matAppend_ok.2 ⟨rfl, by simp only [build_rows]; omega, rfl⟩⟩

theorem gMat_at_identity {r c : Nat} (hr : r < k) (hc : c < k) : C.gMat.at r c = if r = c then 1#8 else 0#8 := by
  obtain ⟨I, Cm, hI, -, hG⟩ := gMat_of_rsNew h
  have hwf := matIdentity_wf hI
  obtain ⟨-, -, rfl⟩ := matIdentity_ok.1 hI
  rw [matAppend_at_top hG hwf hr hc, build_at _ hr hc]

theorem gMat_at_cauchy : ∃ Cm, matCauchy coderField m k = .ok Cm ∧ ∀ i j, C.gMat.at (k + i) j = Cm.at i j := by
  obtain ⟨I, Cm, hI, hCm, hG⟩ := gMat_of_rsNew h
  have hwf := matIdentity_wf hI
  obtain ⟨-, -, rfl⟩ := matIdentity_ok.1 hI
  exact ⟨Cm, hCm, fun _ _ => matAppend_at_bottom hG hwf⟩

/-- A parity entry is the inverse of `x_i + y_j` (R97, R75). -/
theorem gfMulDirect_gMat_parity {i j : Nat} (hi : i < m) (hj : j < k) :
    gfMulDirect 8 0x1D#8 (C.gMat.at (k + i) j) (BitVec.ofNat 8 ((1 + i) ^^^ (1 + m + j))) = 1#8 := by
  obtain ⟨Cm, hCm, hat⟩ := gMat_at_cauchy h
  have hlt := matCauchy_sizes hCm hi hj
  rw [coderField_count] at hlt
  rw [hat, matCauchy_at hCm hi hj, BitVec.ofNat_xor]
  refine (coderField_inv.gfMulTable_eq_gfMulDirect (lt_coderField_count _) (lt_coderField_count _)).symm.trans ?_
  exact coderField_inv.gfMulTable_gfQuot (lt_coderField_count _) (cauchy_divisor_ne_zero hi hj (by omega))
    (lt_coderField_count _)

end Build

/-- Settles O43: the tests in their order, and the two parts of the generator matrix. -/
theorem encoderGeneratorMatrix : Obligations.EncoderGeneratorMatrix := by
  refine ⟨fun _ _ => rfl, fun s k m => ⟨?_, fun hk h => ?_, fun hk hk255 hm h => ?_, fun hk _ hm _ h => ?_,
    fun hk h => ?_⟩⟩
  · rintro rfl; rfl
  · exact complete_bind_of_error (rsNew_tooManyFragments hk h) _
  · exact complete_bind_of_error (rsNew_fieldCapacityExceeded hk hk255 hm h) _
  · exact complete_bind_of_error (rsNew_operandOutOfField hk hm h) _
  · obtain ⟨C, hC⟩ := rsNew_succeeds hk h
    obtain ⟨-, -, hlen⟩ := rsNew_wf hC
    obtain rfl := rsNew_dataNum hC
    obtain rfl := rsNew_parityNum hC
    exact ⟨C, complete_bind_of_ok hC _, rfl, rfl, hlen, fun _ _ => gMat_at_identity hC,
      fun _ _ => gfMulDirect_gMat_parity hC⟩

/-! ## A codeword, byte by byte (R98) -/

/-- Byte `r` of a codeword: row `r` of the generator matrix times the data (R98). -/
def codeByte (C : Coder) (data : List Byte) (r : Nat) : Byte :=
  ((List.range C.dataNum).map fun p => gfMulTable coderField (C.gMat.at r p) (data.getD p 0#8)).foldl gfAdd 0#8

/-- The data is one row, so a codeword is one column (R98). -/
theorem rsEncode_iff {C : Coder} {data v : List Byte} :
    rsEncode C data = .ok v ↔
      data.length = C.dataNum ∧ v = (List.range (C.dataNum + C.parityNum)).map (codeByte C data) := by
  have hbyte (r : Nat) : rowProduct coderField C.gMat { rows := 1, cols := C.dataNum, e := data } r 0 =
      codeByte C data r := by
    simp only [rowProduct_eq_foldl_map, codeByte, Coder.gMat, Mat.at, Nat.zero_mul, Nat.zero_add]
  have hcolumn : (Mat.build (C.dataNum + C.parityNum) 1
      (rowProduct coderField C.gMat { rows := 1, cols := C.dataNum, e := data })).e =
        (List.range (C.dataNum + C.parityNum)).map (codeByte C data) := by
    simp only [Mat.build, List.range_one, List.map_singleton, hbyte]
    exact List.map_eq_flatMap.symm
  rw [rsEncode_ok, hcolumn]

theorem rsEncode_getElem? {C : Coder} {data v : List Byte} (h : rsEncode C data = .ok v) {r : Nat}
    (hr : r < C.dataNum + C.parityNum) : v[r]? = some (codeByte C data r) := by
  obtain ⟨-, rfl⟩ := rsEncode_iff.1 h
  simp [hr]

section Rsenc

variable {s : State} {C : Coder}

theorem exec_rsenc_noCoder (h : s.coder = none) : exec .rsenc s = .next (answerErr 0x0A#8 s) :=
  complete_needCoder_none h _

theorem exec_rsenc_sizeMismatch (hC : s.coder = some C) (h : s.din.length ≠ C.dataNum) :
    exec .rsenc s = .next (answerErr 0x06#8 s) :=
  (complete_bind_of_ok (needCoder_some hC) _).trans (complete_bind_of_error (rsEncode_error.2 ⟨h, rfl⟩) _)

theorem exec_rsenc_ok {v : List Byte} (hC : s.coder = some C) (h : rsEncode C s.din = .ok v) :
    exec .rsenc s = .next (answerOk (C.dataNum + C.parityNum) { s with dout := v }) := by
  rw [← rsEncode_length h]
  exact (complete_bind_of_ok (needCoder_some hC) _).trans (complete_bind_of_ok h _)

end Rsenc

/-- Settles O44: an encoder and data of its length are all that `RSENC` needs. -/
theorem encodeIsGeneratorTimesData : Obligations.EncodeIsGeneratorTimesData := by
  refine ⟨rfl, fun s => ⟨exec_rsenc_noCoder, fun C hC => ⟨exec_rsenc_sizeMismatch hC, fun hlen => ?_⟩⟩⟩
  have hv := rsEncode_iff.2 ⟨hlen, rfl⟩
  exact ⟨_, exec_rsenc_ok hC hv, rsEncode_length hv, fun _ => rsEncode_getElem? hv⟩

/-- Settles O50: the three ways `RSENC` can end; in each the second one meets the encoder and DIN of the first. -/
theorem encodingTwiceGivesTheSame : Obligations.EncodingTwiceGivesTheSame := by
  intro s t h
  rcases hC : s.coder with _ | C
  · cases (exec_rsenc_noCoder hC).symm.trans h
    exact ⟨hC, rfl, exec_rsenc_noCoder (s := answerErr 0x0A#8 s) hC⟩
  by_cases hlen : s.din.length = C.dataNum
  · have hv := rsEncode_iff.2 ⟨hlen, rfl⟩
    cases (exec_rsenc_ok hC hv).symm.trans h
    exact ⟨hC, rfl, exec_rsenc_ok (s := answerOk _ { s with dout := _ }) hC hv⟩
  · cases (exec_rsenc_sizeMismatch hC hlen).symm.trans h
    exact ⟨hC, rfl, exec_rsenc_sizeMismatch (s := answerErr 0x06#8 s) hC hlen⟩

/-! ## Reading the encoder (R103, R104) -/

/-- Settles O47: the index test and the entry, and the two counts side by side. -/
theorem encoderReads : Obligations.EncoderReads := by
  refine ⟨fun _ _ => rfl, rfl, fun s r col => ?_, fun s hcounts => ?_⟩
  · cases hC : s.coder with
    | none => exact complete_needCoder_none hC _
    | some C =>
      refine (complete_bind_of_ok (needCoder_some hC) _).trans ((complete_requireEntry s C.gMat r col _).trans ?_)
      rw [apply_ite Host.Outcome.next, ← complete_byte s]; rfl
  · cases hC : s.coder with
    | none => exact complete_needCoder_none hC _
    | some C =>
      obtain ⟨hdata, hparity⟩ := hcounts C hC
      refine (complete_bind_of_ok (needCoder_some hC) _).trans ?_
      rw [resultOfPair_eq (by omega) (by omega)]; rfl

/-! ## The codeword of a sum (R99) -/

section Sums

variable {α : Type}

/-- A sum of sums is the sum of the two sums. -/
theorem foldl_gfAdd_map_gfAdd (f g : α → Byte) (l : List α) (a b : Byte) :
    (l.map fun x => gfAdd (f x) (g x)).foldl gfAdd (gfAdd a b) =
      gfAdd ((l.map f).foldl gfAdd a) ((l.map g).foldl gfAdd b) := by
  induction l generalizing a b with
  | nil => rfl
  | cons x l ih =>
    have hswap : gfAdd (gfAdd a b) (gfAdd (f x) (g x)) = gfAdd (gfAdd a (f x)) (gfAdd b (g x)) := by
      simp only [gfAdd]; ac_rfl
    simp only [List.map_cons, List.foldl_cons, hswap, ih]

/-- Terms that are zero may be left out of a sum. -/
theorem foldl_gfAdd_filter {f : α → Byte} {l : List α} (q : α → Bool) (h : ∀ x ∈ l, q x = false → f x = 0#8)
    (a : Byte) :
    (l.map f).foldl gfAdd a = ((l.filter q).map f).foldl gfAdd a := by
  induction l generalizing a with
  | nil => rfl
  | cons x l ih =>
    obtain ⟨hx, hl⟩ := List.forall_mem_cons.1 h
    cases hq : q x with
    | true => simp [hq, ih hl]
    | false => simp [hq, ih hl, hx hq, gfAdd]

end Sums

theorem getD_zipWith_gfAdd {d d' : List Byte} (h : d.length = d'.length) (p : Nat) :
    (List.zipWith gfAdd d d').getD p 0#8 = gfAdd (d.getD p 0#8) (d'.getD p 0#8) := by
  by_cases hp : p < d.length
  · simp [hp, h ▸ hp]
  · simp [hp, h ▸ hp, gfAdd]

theorem zipWith_gfAdd_self (l : List Byte) : List.zipWith gfAdd l l = List.replicate l.length 0#8 := by
  simp [List.zipWith_self, gfAdd]

theorem codeByte_gfAdd (C : Coder) {d d' : List Byte} (h : d.length = d'.length) (r : Nat) :
    codeByte C (List.zipWith gfAdd d d') r = gfAdd (codeByte C d r) (codeByte C d' r) := by
  simp only [codeByte, getD_zipWith_gfAdd h,
    coderField_inv.gfMulTable_gfAdd (lt_coderField_count _) (lt_coderField_count _) (lt_coderField_count _)]
  exact foldl_gfAdd_map_gfAdd _ _ _ 0#8 0#8

theorem rsEncode_gfAdd {C : Coder} {d d' v v' : List Byte} (h : rsEncode C d = .ok v) (h' : rsEncode C d' = .ok v') :
    rsEncode C (List.zipWith gfAdd d d') = .ok (List.zipWith gfAdd v v') := by
  obtain ⟨hlen, rfl⟩ := rsEncode_iff.1 h
  obtain ⟨hlen', rfl⟩ := rsEncode_iff.1 h'
  refine rsEncode_iff.2 ⟨by simp [hlen, hlen'], ?_⟩
  simp [List.zipWith_map, List.zipWith_self, codeByte_gfAdd C (hlen.trans hlen'.symm)]

/-- Settles O46: a row times a sum is the sum of the products, and zero data is the sum of an input with itself. -/
theorem encodingIsLinear : Obligations.EncodingIsLinear := by
  intro C d d' v v' h h'
  refine ⟨rsEncode_gfAdd h h', ?_⟩
  have hzero := rsEncode_gfAdd h h
  obtain ⟨hlen, -⟩ := rsEncode_iff.1 h
  rwa [zipWith_gfAdd_self, zipWith_gfAdd_self, hlen, rsEncode_length h] at hzero

/-! ## The codeword starts with the data (R99) -/

theorem filter_range_eq_singleton {r k : Nat} (hr : r < k) : (List.range k).filter (· == r) = [r] := by
  rw [List.filter_beq, List.count_eq_one_of_mem List.nodup_range (List.mem_range.2 hr), List.replicate_one]

/-- A row of the identity picks one byte of the data. -/
theorem codeByte_of_lt {k m : Nat} {C : Coder} (h : rsNew k m = .ok C) (d : List Byte) {r : Nat} (hr : r < k) :
    codeByte C d r = d.getD r 0#8 := by
  obtain rfl := rsNew_dataNum h
  rw [codeByte, foldl_gfAdd_filter (· == r), filter_range_eq_singleton hr]
  · simp only [List.map_singleton, List.foldl_cons, List.foldl_nil, gfAdd, BitVec.zero_xor]
    rw [gMat_at_identity h hr hr, if_pos rfl, gfMulTable_comm, coderField_inv.gfMulTable_one (lt_coderField_count _)]
  · intro p hp hne
    rw [gMat_at_identity h hr (List.mem_range.1 hp), if_neg fun heq => by simp [heq] at hne, gfMulTable_zero_left]

/-- Settles O45: the first `dataNum` rows are the identity. -/
theorem codewordStartsWithTheData : Obligations.CodewordStartsWithTheData := by
  intro s C hC hinv hlen
  have hv := rsEncode_iff.2 ⟨hlen, rfl⟩
  have hdata : (List.range C.dataNum).map (codeByte C s.din) = s.din := by
    refine List.ext_getElem (by simp [hlen]) fun r hr hr' => ?_
    rw [List.getElem_map, List.getElem_range, codeByte_of_lt hinv.built _ (by simpa using hr),
      List.getD_eq_getElem _ _ hr']
  rw [List.range_add, List.map_append, hdata] at hv
  exact ⟨_, by simp, exec_rsenc_ok hC hv⟩

/-! ## Any `dataNum` codeword bytes determine the data (R105) -/

/-- The data positions that are not among `R`. -/
def missingData (k : Nat) (R : List Nat) : List Nat := (List.range k).filter (· ∉ R)

/-- The parity rows whose positions are among `R`. -/
def parityRows (k m : Nat) (R : List Nat) : List Nat := (List.range m).filter (k + · ∈ R)

theorem mem_missingData {k p : Nat} {R : List Nat} : p ∈ missingData k R ↔ p < k ∧ p ∉ R := by
  simp [missingData]

theorem mem_parityRows {k m i : Nat} {R : List Nat} : i ∈ parityRows k m R ↔ i < m ∧ k + i ∈ R := by
  simp [parityRows]

/-- Among `k` different positions there are as many of parity bytes as positions of data bytes are missing. -/
theorem length_parityRows {k m : Nat} {R : List Nat} (hR : R.Nodup) (hlen : R.length = k) (hlt : ∀ r ∈ R, r < k + m) :
    (parityRows k m R).length = (missingData k R).length := by
  have hperm : R.Perm ((List.range (k + m)).filter (· ∈ R)) :=
    (List.perm_ext_iff_of_nodup hR (List.nodup_range.filter _)).2 fun r => by simpa using hlt r
  have hparts : R.length = ((List.range k).filter (· ∈ R)).length + (parityRows k m R).length := by
    rw [hperm.length_eq, List.range_add, List.filter_append, List.filter_map, List.length_append, List.length_map]
    rfl
  have hdata : k = ((List.range k).filter (· ∈ R)).length + (missingData k R).length := by
    simpa [missingData] using List.length_eq_length_filter_add (l := List.range k) (· ∈ R)
  omega

section Erasures

variable {k m : Nat} {C : Coder} (h : rsNew k m = .ok C) {d : List Byte} {R : List Nat}
  (hzero : ∀ r ∈ R, codeByte C d r = 0#8)
include h hzero

/-- A data byte at one of the positions is read off. -/
theorem getD_eq_zero_of_mem {p : Nat} (hp : p < k) (hpR : p ∈ R) : d.getD p 0#8 = 0#8 := by
  rw [← codeByte_of_lt h d hp, hzero p hpR]

/-- What the rows of the parity bytes send to zero is the data at the missing positions. -/
theorem foldl_missingData {Cm : Mat} (hat : ∀ i j, C.gMat.at (k + i) j = Cm.at i j) {i : Nat} (hi : k + i ∈ R) :
    (List.zipWith (fun c v => gfMulTable coderField (Cm.at i c) v) (missingData k R)
      ((missingData k R).map fun p => d.getD p 0#8)).foldl gfAdd 0#8 = 0#8 := by
  have hrow := hzero (k + i) hi
  rw [codeByte, rsNew_dataNum h, foldl_gfAdd_filter (· ∉ R)] at hrow
  · simpa only [missingData, List.zipWith_map_right, List.zipWith_self, hat] using hrow
  · intro p hp hpR
    rw [getD_eq_zero_of_mem h hzero (List.mem_range.1 hp) (by simpa using hpR), gfMulTable_zero_right]

/-- Data whose codeword is zero at `dataNum` different positions is zero: a Cauchy submatrix of the parity rows is
invertible (R76). -/
theorem getD_eq_zero_of_codeByte_eq_zero (hR : R.Nodup) (hlen : R.length = k) (hlt : ∀ r ∈ R, r < k + m) {p : Nat}
    (hp : p < k) : d.getD p 0#8 = 0#8 := by
  by_cases hpR : p ∈ R
  · exact getD_eq_zero_of_mem h hzero hp hpR
  obtain ⟨Cm, hCm, hat⟩ := gMat_at_cauchy h
  have hmissing := cauchySubmatricesAreInvertible coderField m k Cm coderField_inv hCm
    (parityRows k m R) (missingData k R) ((missingData k R).map fun p => d.getD p 0#8)
    (List.nodup_range.filter _) (List.nodup_range.filter _) (length_parityRows hR hlen hlt) (List.length_map _)
    (fun _ hi => (mem_parityRows.1 hi).1) (fun _ hp => (mem_missingData.1 hp).1) (fun v _ => lt_coderField_count v)
    fun _ hi => foldl_missingData h hzero hat (mem_parityRows.1 hi).2
  exact List.forall_mem_map.1 hmissing p (mem_missingData.2 ⟨hp, hpR⟩)

end Erasures

/-- Settles O48: the sum of the two inputs has a codeword that is zero where theirs agree. -/
theorem anyDataNumFragmentsDetermineTheData : Obligations.AnyDataNumFragmentsDetermineTheData := by
  intro k m C d d' v v' R hC hv hv' hR hlen hlt hagree
  obtain ⟨hd, -⟩ := rsEncode_iff.1 hv
  obtain ⟨hd', -⟩ := rsEncode_iff.1 hv'
  have hdd' : d.length = d'.length := hd.trans hd'.symm
  have hzero : ∀ r ∈ R, codeByte C (List.zipWith gfAdd d d') r = 0#8 := fun r hr => by
    have hr' : r < C.dataNum + C.parityNum := by rw [rsNew_dataNum hC, rsNew_parityNum hC]; exact hlt r hr
    have hbyte := hagree r hr
    rw [rsEncode_getElem? hv hr', rsEncode_getElem? hv' hr', Option.some_inj] at hbyte
    rw [codeByte_gfAdd C hdd', hbyte, gfAdd, BitVec.xor_self]
  refine List.ext_getElem hdd' fun p hp hp' => ?_
  have hsum := getD_eq_zero_of_codeByte_eq_zero hC hzero hR hlen hlt (by rwa [hd, rsNew_dataNum hC] at hp)
  rwa [getD_zipWith_gfAdd hdd', List.getD_eq_getElem _ _ hp, List.getD_eq_getElem _ _ hp', gfAdd,
    BitVec.xor_eq_zero_iff] at hsum

end Sys2Proof.Machine
end

section
/-!
PROOF. The system and buffer commands (R111 to R116): what each answers, by the ways it can end.
-/

namespace Sys2Proof.Machine

/-- A success with a count in RESULT is the claims' answer of the count. -/
theorem complete_nat (s t : State) (n : Nat) : complete s (.ok (t, resultOfNat n)) = .next (answerOk n t) :=
  (complete_ok s t _).trans (congrArg Host.Outcome.next (respond_ok n t))

/-! ## NOP and RESET (R111, R112) -/

/-- Settles O11: the command's one way to end is a success without writes. -/
theorem nopWritesOnlyTheResponse : Obligations.NopWritesOnlyTheResponse :=
  ⟨by decide, fun s => complete_nat s s 0⟩

/-- Settles O12: the command's one way to end is a success that clears every part but the host's. -/
theorem resetCommandClearsEverything : Obligations.ResetCommandClearsEverything :=
  ⟨by decide, fun s => complete_nat s s.clearAll 0⟩

/-! ## The buffers, one lemma per way a command can end (R114, R115) -/

section Buffers

variable {s : State}

theorem exec_dpush_of_lt (h : s.din.length < 256) (byte : Byte) :
    exec (.dpush byte) s = .next (answerOk (s.din.length + 1) { s with din := s.din ++ [byte] }) :=
  (complete_bind_of_ok (require_of h) _).trans (complete_nat s (s.pushDin byte) _)

theorem exec_dpush_full (h : ¬s.din.length < 256) (byte : Byte) : exec (.dpush byte) s = .next (answerErr 0x0D#8 s) :=
  complete_bind_of_error (require_of_not h) _

theorem exec_rdout_some {i : Nat} {v : Byte} (h : s.dout[i]? = some v) :
    exec (.rdout i) s = .next (answerOk v.toNat s) := by
  obtain ⟨hi, rfl⟩ := List.getElem?_eq_some_iff.1 h
  rw [← List.getD_eq_getElem _ 0#8 hi]
  exact (complete_bind_of_ok (require_of hi) _).trans (complete_byte ..)

theorem exec_rdout_none {i : Nat} (h : s.dout[i]? = none) : exec (.rdout i) s = .next (answerErr 0x0E#8 s) :=
  complete_bind_of_error (require_of_not (List.getElem?_eq_none_iff.1 h).not_gt) _

end Buffers

/-! ## The buffer commands (R113 to R116) -/

/-- Settles O13: the number of bytes held is the one test of `DPUSH`. -/
theorem inputBufferCommands : Obligations.InputBufferCommands := by
  refine ⟨by decide, fun s => complete_nat s s.clearDin 0, fun _ => rfl, fun byte s => ?_⟩
  split
  · next h => exact exec_dpush_of_lt h byte
  · next h => exact exec_dpush_full h byte

/-- Settles O14: `RDOUT` fails exactly where DOUT holds no byte. -/
theorem outputBufferCommands : Obligations.OutputBufferCommands := by
  refine ⟨fun _ => rfl, fun i s => ?_, by decide, fun s => complete_nat s s _⟩
  split
  · next h => exact exec_rdout_some h
  · next h => exact exec_rdout_none h

end Sys2Proof.Machine
end

section
/-!
PROOF. The exceptions of the whole machine: which errors each test and each function can raise and so each command
(R122), what an error writes (R121), and the idle block (R136).
-/

namespace Sys2Proof.Machine

/-! ## The idle block (R136) -/

/-- Settles O8: the case of a step in which the host gives nothing. -/
theorem idleKeepsAllState : Obligations.IdleKeepsAllState := fun _ => step_idle rfl

/-! ## What an error writes (R121) -/

/-- Settles O53: of the two ways a command can end, only `raise` answers another STATUS than success. -/
theorem errorsWriteNothingElse : Obligations.ErrorsWriteNothingElse := by
  intro i s t h hstatus
  rcases exec_effect h with ⟨e, rfl⟩ | ⟨u, v, -, rfl⟩
  · exact raise_eq e s
  · exact absurd rfl hstatus

/-! ## Which errors a test or a function can raise -/

/-- `RaisesOnly E x`: if `x` fails, then with one of the errors `E`. -/
def RaisesOnly {α : Type} (E : List Err) (x : Except Err α) : Prop := ∀ e, x = .error e → e ∈ E

section Rules

variable {α β : Type} {E E' : List Err} {x : Except Err α}

theorem RaisesOnly.of_ok {a : α} (h : x = .ok a) : RaisesOnly [] x := by
  subst h; nofun

theorem RaisesOnly.of_error {e : Err} (h : x = .error e) (he : e ∈ E) : RaisesOnly E x := by
  subst h; rintro _ ⟨⟩; exact he

theorem RaisesOnly.ret {a : α} : RaisesOnly [] (.ok a : Except Err α) := .of_ok rfl

/-- A test before the rest adds its own error. -/
theorem RaisesOnly.test {p : Prop} [Decidable p] {e : Err} (h : RaisesOnly E x) :
    RaisesOnly (e :: E) (if p then .error e else x) := by
  split
  · exact .of_error rfl List.mem_cons_self
  · exact fun f hf => List.mem_cons_of_mem e (h f hf)

/-- A sequence fails with an error of its first part, or with one of the rest after what the first part found. -/
theorem RaisesOnly.bind {f : α → Except Err β} (hx : RaisesOnly E x) (hf : ∀ a, x = .ok a → RaisesOnly E' (f a)) :
    RaisesOnly (E ++ E') (x >>= f) := by
  intro e he
  rcases bind_error.1 he with hxe | ⟨a, ha, hfe⟩
  · exact List.mem_append_left E' (hx e hxe)
  · exact List.mem_append_right E (hf a ha e hfe)

end Rules

section Functions

variable {s : State} {F : FieldCtx}

theorem needField_raises : RaisesOnly [.noField] (needField s) :=
  fun _ h => List.mem_singleton.2 (needField_error.1 h).2

theorem needCoder_raises : RaisesOnly [.noCoder] (needCoder s) :=
  fun _ h => List.mem_singleton.2 (needCoder_error.1 h).2

theorem needMat_raises {r : MReg} : RaisesOnly [.matrixInvalid] (needMat s r) :=
  fun _ h => List.mem_singleton.2 (needMat_error.1 h).2

theorem require_raises {p : Prop} [Decidable p] {e : Err} : RaisesOnly [e] (require p e) :=
  fun _ h => List.mem_singleton.2 (require_error.1 h).2

theorem inField_raises {v : Nat} : RaisesOnly [.operandOutOfField] (inField F v) := .test .ret

theorem gfDivTable_raises {x y : Byte} : RaisesOnly [.divideByZero] (gfDivTable F x y) := .test .ret

theorem findGenerator_raises {w : Nat} {P : Byte} : RaisesOnly [.noGeneratorFound] (findGenerator w P) :=
  fun _ h => List.mem_singleton.2 (findGenerator_error.1 h).2

theorem constructField_raises {w : Nat} {P : Byte} :
    RaisesOnly [.invalidOrder, .noGeneratorFound] (constructField w P) := by
  intro e h
  rcases constructField_error.1 h with ⟨-, rfl⟩ | ⟨-, hfind⟩
  · exact List.mem_cons_self
  · exact List.mem_cons_of_mem _ (findGenerator_raises e hfind)

theorem matNew_raises {rows cols : Nat} {fill : Byte} : RaisesOnly [.capacityExceeded] (matNew rows cols fill) :=
  .test .ret

theorem matIdentity_raises {n : Nat} : RaisesOnly [.zeroSizeMatrix, .capacityExceeded] (matIdentity n) :=
  .test (.test .ret)

theorem matCauchy_raises {rows cols : Nat} :
    RaisesOnly [.tooManyFragments, .fieldCapacityExceeded, .operandOutOfField] (matCauchy F rows cols) :=
  .test (.test (.test .ret))

theorem matAppend_raises {T B : Mat} : RaisesOnly [.shapeMismatch, .capacityExceeded] (matAppend T B) :=
  .test (.test .ret)

theorem matMulF_raises {A B : Mat} : RaisesOnly [.shapeMismatch, .operandOutOfField] (matMulF F A B) :=
  .test (.test .ret)

/-- The tests of `rs_new` leave sizes for which the identity, the Cauchy matrix and their append cannot fail (R97). -/
theorem rsNew_raises {k m : Nat} :
    RaisesOnly [.zeroSizeMatrix, .tooManyFragments, .fieldCapacityExceeded, .operandOutOfField] (rsNew k m) := by
  rcases Nat.eq_zero_or_pos k with rfl | hk
  · exact .of_error (e := .zeroSizeMatrix) rfl (by decide)
  by_cases hmany : 255 < m ∨ 255 < k
  · exact .of_error (rsNew_tooManyFragments hk hmany) (by decide)
  rcases lt_trichotomy (k + m) 256 with hlt | heq | hgt
  · obtain ⟨C, hC⟩ := rsNew_succeeds hk (Nat.le_of_lt_succ hlt)
    exact fun e he => nomatch hC.symm.trans he
  · exact .of_error (rsNew_operandOutOfField hk (by omega) heq) (by decide)
  · exact .of_error (rsNew_fieldCapacityExceeded hk (by omega) (by omega) hgt) (by decide)

theorem rsEncode_raises {C : Coder} {data : List Byte} : RaisesOnly [.sizeMismatch] (rsEncode C data) :=
  fun _ h => List.mem_singleton.2 (rsEncode_error.1 h).2

end Functions

/-! ## Which errors a command can raise (R122) -/

/-- The table lists the command under each of the errors (R122). -/
def listedUnder (i : Instr) (E : List Err) : Bool := E.all fun e => decide (e.code ∈ i.codes)

/-- Every meaning raises what its tests and its function raise, and the table lists the command under all of it. -/
theorem exec_raises (i : Instr) {s : State} (hs : s.Inv) :
    ∃ r E, exec i s = complete s r ∧ RaisesOnly E r ∧ listedUnder i E = true := by
  cases i with
  | nop | reset | rdfld | mcolv | dclr | rdolen => exact ⟨.ok (_, _), _, rfl, .ret, rfl⟩
  | field => exact ⟨_, _, rfl, .bind constructField_raises fun _ _ => .ret, rfl⟩
  | gfadd | gfsub | gfmuld | gfmult =>
    exact ⟨_, _, rfl, .bind needField_raises fun _ _ => .bind inField_raises fun _ _ =>
      .bind inField_raises fun _ _ => .ret, rfl⟩
  | gfdivt =>
    exact ⟨_, _, rfl, .bind needField_raises fun _ _ => .bind inField_raises fun _ _ =>
      .bind inField_raises fun _ _ => .bind gfDivTable_raises fun _ _ => .ret, rfl⟩
  | isgen => exact ⟨_, _, rfl, .bind needField_raises fun _ _ => .bind inField_raises fun _ _ => .ret, rfl⟩
  | mingen =>
    exact ⟨_, _, rfl, .bind needField_raises fun F hF =>
      .bind (.of_ok (hs.field F (needField_ok.1 hF)).findGenerator_eq) fun _ _ => .ret, rfl⟩
  | allgen => exact ⟨_, _, rfl, .bind needField_raises fun _ _ => .ret, rfl⟩
  | rdpow | rdlog => exact ⟨_, _, rfl, .bind needField_raises fun _ _ => .bind require_raises fun _ _ => .ret, rfl⟩
  | mnew => exact ⟨_, _, rfl, .bind matNew_raises fun _ _ => .ret, rfl⟩
  | mident => exact ⟨_, _, rfl, .bind matIdentity_raises fun _ _ => .ret, rfl⟩
  | mcauchy => exact ⟨_, _, rfl, .bind needField_raises fun _ _ => .bind matCauchy_raises fun _ _ => .ret, rfl⟩
  | mappend =>
    exact ⟨_, _, rfl, .bind needMat_raises fun _ _ => .bind needMat_raises fun _ _ =>
      .bind matAppend_raises fun _ _ => .ret, rfl⟩
  | mmulf =>
    exact ⟨_, _, rfl, .bind needField_raises fun _ _ => .bind needMat_raises fun _ _ =>
      .bind needMat_raises fun _ _ => .bind matMulF_raises fun _ _ => .ret, rfl⟩
  | mtovec | mdim => exact ⟨_, _, rfl, .bind needMat_raises fun _ _ => .ret, rfl⟩
  | mrd | mwr => exact ⟨_, _, rfl, .bind needMat_raises fun _ _ => .bind require_raises fun _ _ => .ret, rfl⟩
  | dpush | rdout => exact ⟨_, _, rfl, .bind require_raises fun _ _ => .ret, rfl⟩
  | rsnew => exact ⟨_, _, rfl, .bind rsNew_raises fun _ _ => .ret, rfl⟩
  | rsenc => exact ⟨_, _, rfl, .bind needCoder_raises fun _ _ => .bind rsEncode_raises fun _ _ => .ret, rfl⟩
  | rsrdg => exact ⟨_, _, rfl, .bind needCoder_raises fun _ _ => .bind require_raises fun _ _ => .ret, rfl⟩
  | rsdim => exact ⟨_, _, rfl, .bind needCoder_raises fun _ _ => .ret, rfl⟩

/-- Every command can answer `OK` (R122). -/
theorem ok_mem_codes (i : Instr) : 0x00#8 ∈ i.codes := by
  cases i <;> exact List.mem_cons_self

/-- Settles O57: the codes by the errors each command can raise, their range by the invariant. -/
theorem commandsRaiseOnlyTheirCodes : Obligations.CommandsRaiseOnlyTheirCodes := by
  intro i s t hs h
  refine ⟨?_, Nat.lt_succ_of_le (exec_inv hs h).statusCode⟩
  obtain ⟨r, E, hexec, hraises, hlisted⟩ := exec_raises i hs
  rcases complete_cases (hexec ▸ h) with ⟨u, v, -, rfl⟩ | ⟨e, he, rfl⟩
  · exact ok_mem_codes i
  · exact of_decide_eq_true (List.all_eq_true.1 hlisted e (hraises e he))

end Sys2Proof.Machine
end

section
/-!
PROOF. One response per accepted command, in order (R144): every command presents a response and leaves the host's list
alone, so a step takes one word off the list and presents one response, and a run is that many steps.
-/

namespace Sys2Proof.Machine

/-! ## One command, one response -/

/-- No command writes what the host still gives. -/
theorem Effect.host_eq {i : Instr} {s u : State} (h : Effect s i u) : u.host = s.host := by
  cases h with
  | mnew | mident | mcolv | mcauchy | mappend | mmulf | mwr => exact putMat_host ..
  | answer | reset | field | allgen | mtovec | rsenc | dclr | dpush | rsnew => rfl

theorem exec_host {i : Instr} {s t : State} (h : exec i s = .next t) : t.host = s.host :=
  exec_unchanged State.host respond_host h fun _ hu => hu.host_eq

/-- Both ways a command can end present a response. -/
theorem exec_rspValid {i : Instr} {s t : State} (h : exec i s = .next t) : t.rspValid = true := by
  rcases exec_effect h with ⟨e, rfl⟩ | ⟨u, v, -, rfl⟩
  · exact raise_rspValid e s
  · exact respond_rspValid statusOk v u

theorem exec_presents (i : Instr) (s : State) : ∃ t, exec i s = .next t ∧ t.rspValid = true ∧ t.host = s.host := by
  obtain ⟨r, hr, -⟩ := exec_leaves i s
  obtain ⟨t, ht⟩ := complete_answers s r
  have hexec : exec i s = .next t := hr.trans ht
  exact ⟨t, hexec, exec_rspValid hexec, exec_host hexec⟩

/-! ## One step, one word -/

theorem response_of_rspValid {s : State} (h : s.rspValid = true) : s.response = some (s.status, s.result) := if_pos h

/-- A step takes the word given next, legal or not, and presents its response. -/
theorem step_presents {s : State} {wd : Word} {rest : List HostEvent} (h : s.host = .command wd :: rest) :
    ∃ t, step s = .next t ∧ t.response = some (t.status, t.result) ∧ t.host = rest := by
  rcases hd : decode wd with _ | i
  · exact ⟨_, step_illegal h hd, response_of_rspValid (illegalCommand_rspValid _), illegalCommand_host _⟩
  · obtain ⟨t, hexec, hvalid, hhost⟩ := exec_presents i { s with host := rest }
    exact ⟨t, (step_command h hd).trans hexec, response_of_rspValid hvalid, hhost⟩

/-! ## Runs on a list of words -/

theorem runState_succ {s t : State} (h : step s = .next t) (k : Nat) : runState (k + 1) s = runState k t := by
  simp [runState, h]

theorem runResponses_succ {s t : State} (h : step s = .next t) (k : Nat) :
    runResponses (k + 1) s = t.response.toList ++ runResponses k t := by
  simp [runResponses, h]

/-- STATUS and RESULT after `k` steps. -/
def responseAfter (s : State) (k : Nat) : Byte × Result := ((runState k s).status, (runState k s).result)

theorem responseAfter_one {s t : State} (h : step s = .next t) : responseAfter s 1 = (t.status, t.result) := by
  rw [responseAfter, runState_succ h, runState]

theorem responseAfter_succ {s t : State} (h : step s = .next t) (k : Nat) :
    responseAfter s (k + 1) = responseAfter t k := by
  rw [responseAfter, runState_succ h, responseAfter]

theorem runState_host_of_words {words : List Word} {s : State} (h : s.host = words.map .command) :
    (runState words.length s).host = [] := by
  induction words generalizing s with
  | nil => exact h
  | cons wd words ih =>
    obtain ⟨t, hstep, -, hhost⟩ := step_presents h
    rw [List.length_cons, runState_succ hstep]
    exact ih hhost

/-- The responses of a run are those after the first step, after the second, …, one for each word. -/
theorem runResponses_of_words {words : List Word} {s : State} (h : s.host = words.map .command) :
    runResponses words.length s = (List.range words.length).map fun k => responseAfter s (k + 1) := by
  induction words generalizing s with
  | nil => rfl
  | cons wd words ih =>
    obtain ⟨t, hstep, hresponse, hhost⟩ := step_presents h
    calc runResponses (words.length + 1) s
      _ = (t.status, t.result) :: runResponses words.length t := by rw [runResponses_succ hstep, hresponse]; rfl
      _ = responseAfter s 1 :: (List.range words.length).map fun k => responseAfter s (k + 1 + 1) := by
        simp only [ih hhost, responseAfter_one hstep, responseAfter_succ hstep (_ + 1)]
      _ = (List.range (words.length + 1)).map fun k => responseAfter s (k + 1) := by
        simp [List.range_succ_eq_map, Function.comp_def]

/-- Settles O10: a run on a list of words is one step per word, and each step presents one response. -/
theorem oneResponsePerCommandInOrder : Obligations.OneResponsePerCommandInOrder := by
  refine ⟨exec_presents, fun s words => ?_⟩
  have hresponses := runResponses_of_words (words := words) (s := s.withProgram words) rfl
  refine ⟨runState_host_of_words rfl, ?_, fun k hk => ?_⟩
  · rw [hresponses, List.length_map, List.length_range]
  · rw [hresponses, List.getElem?_map, List.getElem?_range hk, Option.map_some, responseAfter]

end Sys2Proof.Machine
end
